-- ==== Sys2Proof/Word.lean ====
section
/-!
DEFINITION. The word types of the block and the names of its selector values.
00_scope R7, R9, R10, R13; 10_state R20, R31.
-/

namespace Sys2Proof

/-- A register value, an unsigned 32-bit bit vector (R7, R10). -/
abbrev Word := BitVec 32

/-- A register slot index, 0 to 15 (R20, R50). -/
abbrev Slot := BitVec 4

/-- One digit cell of the digit buffer (R31). -/
abbrev Digit := BitVec 4

/-- The radix a command names (R13, R75). -/
inductive Radix where
  | two
  | ten
  deriving DecidableEq, Repr

/-- A width code of the command word (R13, R76). Code 0b11 names no width; it can be encoded and every
command that reads it raises InvalidWidth. -/
inductive WidthCode where
  | w8
  | w16
  | w32
  | reserved
  deriving DecidableEq, Repr

end Sys2Proof
end

