-- ==== Sys2Proof/Config.lean ====
section
/-!
DEFINITION. What the platform fixes: the two open parameters of 00_scope R8. Both are uninterpreted:
nothing in the model can learn their value.
-/

namespace Sys2Proof

/-- Which 64-byte block of the host's address space the platform gives the slots (R53, R57). -/
opaque Config.baseBlock : Nat

/-- BASE, the host address of slot 0 (R8, R53): "BASE must be a multiple of 64". Log 4. -/
def Config.base : Nat := 64 * Config.baseBlock

/-- LATENCY of the command with this opcode, less one (R8). -/
opaque Config.latencyLessOne : BitVec 4 → Nat

/-- LATENCY (R8, R236): cycles a command takes, at least 1, possibly different from command to command.
No rule of the spec depends on it and no step reads it. Log 5. -/
def Config.latency (op : BitVec 4) : Nat := Config.latencyLessOne op + 1

end Sys2Proof
end

