-- ==== Sys2Proof/Syntax.lean ====
section
/-!
DEFINITION. The ten commands of the block (30_encoding R72), one constructor per row of the opcode table,
with the fields each one reads. Data operands are no part of a command: they come from A, B, C and the
digit buffer (R80).
-/

namespace Sys2Proof

/-- A command. The radix and width fields are the selectors of R75 and R76; RC_DECODE carries its digit
count `n`, written `n=1..32` in the command syntax (R81) and stored as L = n - 1 (R77). -/
inductive Instr where
  /-- CLRST, R190 -/
  | clrst
  /-- RC_MAC, R103 -/
  | rcMac (r : Radix)
  /-- RC_DECODE, R104 -/
  | rcDecode (r : Radix) (n : Nat)
  /-- RC_ENCODE, R105 -/
  | rcEncode (r : Radix)
  /-- TC_NEG, R132 -/
  | tcNeg (wf : WidthCode)
  /-- TC_NOT, R133 -/
  | tcNot (wf : WidthCode)
  /-- TC_SEXT, R134 -/
  | tcSext (wf wt : WidthCode)
  /-- TC_TRUNC, R135 -/
  | tcTrunc (wf wt : WidthCode)
  /-- FC_DECOMP, R161 -/
  | fcDecomp
  /-- FC_COMP, R162 -/
  | fcComp
  deriving DecidableEq, Repr

end Sys2Proof
end

