-- ==== Sys2Proof/WellFormed.lean ====
section
/-!
DEFINITION. Which terms of `Instr` are commands of the block: those the command word can carry.
-/

namespace Sys2Proof

/-- RC_DECODE names 1 to 32 digits: "An empty sequence and a sequence longer than the buffer cannot be
encoded" (30_encoding R77). Every other field of `Instr` is exact by its type (R75, R76). -/
def Instr.wellFormed : Instr → Bool
  | .clrst => true
  | .rcMac _ => true
  | .rcDecode _ n => decide (1 ≤ n) && decide (n ≤ 32)
  | .rcEncode _ => true
  | .tcNeg _ => true
  | .tcNot _ => true
  | .tcSext _ _ => true
  | .tcTrunc _ _ => true
  | .fcDecomp => true
  | .fcComp => true

/-- The command word can carry `i`. -/
abbrev Instr.WellFormed (i : Instr) : Prop := i.wellFormed = true

end Sys2Proof
end

