-- ==== Sys2Proof/Decode.lean ====
section
/-!
DEFINITION. The command word: its fields (30_encoding R71), the ten rows of R73, the decoder of R74 (total
on every 32-bit word, rejecting by name) and the encoder.
-/

namespace Sys2Proof

/-! The opcodes of R72. -/

abbrev opClrst : BitVec 4 := 0x0
abbrev opRcMac : BitVec 4 := 0x1
abbrev opRcDecode : BitVec 4 := 0x2
abbrev opRcEncode : BitVec 4 := 0x3
abbrev opTcNeg : BitVec 4 := 0x4
abbrev opTcNot : BitVec 4 := 0x5
abbrev opTcSext : BitVec 4 := 0x6
abbrev opTcTrunc : BitVec 4 := 0x7
abbrev opFcDecomp : BitVec 4 := 0x8
abbrev opFcComp : BitVec 4 := 0x9

/-- The opcode of a command (R72). -/
def Instr.opcode : Instr → BitVec 4
  | .clrst => opClrst
  | .rcMac _ => opRcMac
  | .rcDecode _ _ => opRcDecode
  | .rcEncode _ => opRcEncode
  | .tcNeg _ => opTcNeg
  | .tcNot _ => opTcNot
  | .tcSext _ _ => opTcSext
  | .tcTrunc _ _ => opTcTrunc
  | .fcDecomp => opFcDecomp
  | .fcComp => opFcComp

/-! The fields of R71. -/

/-- OP, bits 3:0. -/
def fieldOP (v : Word) : BitVec 4 := v.extractLsb' 0 4
/-- R, bit 4. -/
def fieldR (v : Word) : BitVec 1 := v.extractLsb' 4 1
/-- WF, bits 6:5. -/
def fieldWF (v : Word) : BitVec 2 := v.extractLsb' 5 2
/-- WT, bits 8:7. -/
def fieldWT (v : Word) : BitVec 2 := v.extractLsb' 7 2
/-- L, bits 13:9. -/
def fieldL (v : Word) : BitVec 5 := v.extractLsb' 9 5

/-- "0 means radix 2 and 1 means radix 10" (R75). -/
def decodeRadix (b : BitVec 1) : Radix := if b = 0 then .two else .ten

/-- "0b00 means 8 bits, 0b01 means 16 and 0b10 means 32", "Code 0b11 is reserved" (R76). -/
def decodeWidth (c : BitVec 2) : WidthCode :=
  if c = 0b00 then .w8 else if c = 0b01 then .w16 else if c = 0b10 then .w32 else .reserved

/-- "len = uint(L) + 1 digits" (R77). -/
def decodeCount (l : BitVec 5) : Nat := l.toNat + 1

/-- One row of the pattern table R73, with the command it names. -/
structure Row where
  pattern : Word
  mask : Word
  command : Word → Instr

/-- The row of R73 whose pattern fixes OP to `op`; none for the reserved opcodes 0xA to 0xF. -/
def rowOf (op : BitVec 4) : Option Row :=
  match op.toNat with
  | 0 => some ⟨0x00000000, 0xFFFFFFFF, fun _ => .clrst⟩
  | 1 => some ⟨0x00000001, 0xFFFFFFEF, fun v => .rcMac (decodeRadix (fieldR v))⟩
  | 2 => some ⟨0x00000002, 0xFFFFC1EF, fun v => .rcDecode (decodeRadix (fieldR v)) (decodeCount (fieldL v))⟩
  | 3 => some ⟨0x00000003, 0xFFFFFFEF, fun v => .rcEncode (decodeRadix (fieldR v))⟩
  | 4 => some ⟨0x00000004, 0xFFFFFF9F, fun v => .tcNeg (decodeWidth (fieldWF v))⟩
  | 5 => some ⟨0x00000005, 0xFFFFFF9F, fun v => .tcNot (decodeWidth (fieldWF v))⟩
  | 6 => some ⟨0x00000006, 0xFFFFFE1F, fun v => .tcSext (decodeWidth (fieldWF v)) (decodeWidth (fieldWT v))⟩
  | 7 => some ⟨0x00000007, 0xFFFFFE1F, fun v => .tcTrunc (decodeWidth (fieldWF v)) (decodeWidth (fieldWT v))⟩
  | 8 => some ⟨0x00000008, 0xFFFFFFFF, fun _ => .fcDecomp⟩
  | 9 => some ⟨0x00000009, 0xFFFFFFFF, fun _ => .fcComp⟩
  | _ => none

/-- Why a word names no command (R74, R78, R79). -/
inductive IllegalCause where
  /-- OP is 0xA to 0xF; `others` says whether bits 31:4 are not all zero (R78). -/
  | reservedOpcode (others : Bool)
  /-- OP is defined and a field that is MBZ for it is not zero (R79). -/
  | mbzField
  deriving DecidableEq, Repr

/-- The decode step of Execute(v) (R74). -/
def decode (v : Word) : Except IllegalCause Instr :=
  match rowOf (fieldOP v) with
  | none => .error (.reservedOpcode (v.extractLsb' 4 28 != 0))
  | some row => if v &&& row.mask = row.pattern then .ok (row.command v) else .error .mbzField

/-! The encoder. -/

/-- The layout of R71: OP in 3:0, R in 4, WF in 6:5, WT in 8:7, L in 13:9, bits 31:14 zero. -/
def cmdWord (op : BitVec 4) (r : BitVec 1) (wf wt : BitVec 2) (l : BitVec 5) : Word :=
  op.setWidth 32 ||| (r.setWidth 32 <<< 4) ||| (wf.setWidth 32 <<< 5) ||| (wt.setWidth 32 <<< 7) ||| (l.setWidth 32 <<< 9)

/-- The R field of a radix (R75). -/
def encodeRadix : Radix → BitVec 1
  | .two => 0
  | .ten => 1

/-- The width code (R76). -/
def encodeWidth : WidthCode → BitVec 2
  | .w8 => 0b00
  | .w16 => 0b01
  | .w32 => 0b10
  | .reserved => 0b11

/-- The L field of a digit count (R77). -/
def encodeCount (n : Nat) : BitVec 5 := BitVec.ofNat 5 (n - 1)

/-- The command word of a command: the fields R72 gives it, zero everywhere else. -/
def encode : Instr → Word
  | .clrst => cmdWord opClrst 0 0 0 0
  | .rcMac r => cmdWord opRcMac (encodeRadix r) 0 0 0
  | .rcDecode r n => cmdWord opRcDecode (encodeRadix r) 0 0 (encodeCount n)
  | .rcEncode r => cmdWord opRcEncode (encodeRadix r) 0 0 0
  | .tcNeg wf => cmdWord opTcNeg 0 (encodeWidth wf) 0 0
  | .tcNot wf => cmdWord opTcNot 0 (encodeWidth wf) 0 0
  | .tcSext wf wt => cmdWord opTcSext 0 (encodeWidth wf) (encodeWidth wt) 0
  | .tcTrunc wf wt => cmdWord opTcTrunc 0 (encodeWidth wf) (encodeWidth wt) 0
  | .fcDecomp => cmdWord opFcDecomp 0 0 0 0
  | .fcComp => cmdWord opFcComp 0 0 0 0

/-- The command word whose bits, as the opcode table numbers them, are the low `nbits` bits of `w`. The
block's one format is one 32-bit word with bit 0 least significant (R70, R9): there are no bytes to lay out. -/
def tableWord (nbits w : Nat) : Word := BitVec.ofNat 32 (w % 2 ^ nbits)

/-- The command the decoder reads from a word of the opcode table; none where it refuses. -/
def decodeTableWord (nbits w : Nat) : Option Instr :=
  match decode (tableWord nbits w) with
  | .ok i => some i
  | .error _ => none

end Sys2Proof
end

