-- ==== Sys2Proof/Machine/State.lean ====
section
/-!
DEFINITION. The state of the machine: the thirteen implemented slots of the block (10_state R20) and the
host at its one port (20_memory R59, R64). Plain data throughout.
-/

namespace Sys2Proof.Machine

/-- What the host, or the reset input it drives, does next (20_memory R64). -/
inductive HostAction where
  /-- HostRead(k), R51. -/
  | read (k : Slot)
  /-- HostWrite(k, v), R52. -/
  | write (k : Slot) (v : Word)
  /-- MemRead(addr, n), the byte-addressed view of R53. -/
  | busRead (addr nbytes : Nat)
  /-- MemWrite(addr, n, v), the byte-addressed view of R53. -/
  | busWrite (addr nbytes : Nat) (v : Word)
  /-- The reset input asserted between accesses, R230. -/
  | reset
  /-- A HostWrite(CMD, v) during which reset is asserted, R231. -/
  | resetDuringCmd (v : Word)
  deriving DecidableEq, Repr

/-- The error kinds of 60_exceptions R201. -/
inductive ErrorKind where
  | invalidDigit
  | invalidWidth
  | fieldOutOfRange
  | illegalCommand
  deriving DecidableEq, Repr

/-- The machine. The first thirteen fields are slots 0 to 12 of R20; slots 13 to 15 hold nothing (R33). The
last three are the host's side: where it is in its numbered access list (R24, R84), the actions it has still
to take, and what its reads gave back, oldest first (R64). -/
@[ext]
structure State where
  /-- A, slot 0, operand (R21) -/
  a : Word
  /-- B, slot 1, operand (R21) -/
  b : Word
  /-- C, slot 2, operand (R21) -/
  c : Word
  /-- CMD, slot 3, the last command word written (R25) -/
  cmd : Word
  /-- ST, slot 4, status (R27) -/
  st : Word
  /-- R0, slot 5, result (R22) -/
  r0 : Word
  /-- R1, slot 6, result (R22) -/
  r1 : Word
  /-- R2, slot 7, result (R22) -/
  r2 : Word
  /-- R3, slot 8, result (R22) -/
  r3 : Word
  /-- DIG0, slot 9, digit cells 0 to 7 (R31) -/
  dig0 : Word
  /-- DIG1, slot 10, digit cells 8 to 15 (R31) -/
  dig1 : Word
  /-- DIG2, slot 11, digit cells 16 to 23 (R31) -/
  dig2 : Word
  /-- DIG3, slot 12, digit cells 24 to 31 (R31) -/
  dig3 : Word
  /-- The number of the host's next access, 1 for its first (R24). -/
  position : Nat
  /-- The host's actions still to come, in its order (R59). Log 1. -/
  pending : List HostAction
  /-- What the host's reads gave back, oldest first (R51, R64). Log 1. -/
  returned : List Word
  deriving DecidableEq, Repr

/-- Reasons the machine stops with a fault: none. "In this hardware an error is a status and not a trap"
(60_exceptions R200), "The block takes no traps" (R207), and every command ends (R236). Nobody raises one;
that there is none is exact, neither safe nor unsafe. -/
inductive Fault
  deriving DecidableEq, Repr

/-- Reasons the machine has no transition. -/
inductive Refusal where
  /-- Raised by an arm of `exec` whose command has no meaning yet. Safe: nothing is claimed of it. -/
  | notModelled (mnemonic : String)
  /-- Raised by a byte-addressed host access that is no transaction of the block: "A model refuses such an
  access. The spec gives it no meaning" (20_memory R53). Safe: nothing is claimed past it. -/
  | notATransaction (addr nbytes : Nat)
  deriving DecidableEq, Repr

/-- The machine right after reset: every implemented slot holds 0x00000000 (R37, R230), the host is at
position 1 (R24) and has not yet decided on any action (log 1, log 2). -/
def State.reset : State where
  a := 0
  b := 0
  c := 0
  cmd := 0
  st := 0
  r0 := 0
  r1 := 0
  r2 := 0
  r3 := 0
  dig0 := 0
  dig1 := 0
  dig2 := 0
  dig3 := 0
  position := 1
  pending := []
  returned := []

end Sys2Proof.Machine
end

