-- ==== Sys2Proof/Machine/Flags.lean ====
section
/-!
DEFINITION. The status register ST: its fields (10_state R27), the error codes (60_exceptions R201), the
detail each IllegalCommand records (R202), and the two updates (R204, R205). The block has no other flags
(10_state R35).
-/

namespace Sys2Proof.Machine

/-- ST.ERR, bits 2:0 (R27). -/
def stErr (st : Word) : BitVec 3 := st.extractLsb' 0 3
/-- ST.STICKY, bit 3 (R27, R29). -/
def stSticky (st : Word) : Bool := st.getLsbD 3
/-- ST.LASTOP, bits 7:4 (R27, R30). -/
def stLastop (st : Word) : BitVec 4 := st.extractLsb' 4 4
/-- ST.EINFO, bits 15:8 (R27, R30). -/
def stEinfo (st : Word) : BitVec 8 := st.extractLsb' 8 8
/-- ST[31:16], "reserved; always read 0" (R27). -/
def stReserved (st : Word) : BitVec 16 := st.extractLsb' 16 16

/-- A status word from its four fields, bits 31:16 zero (R27). -/
def statusWord (err : BitVec 3) (sticky : Bool) (op : BitVec 4) (info : BitVec 8) : Word :=
  err.setWidth 32 ||| ((BitVec.ofBool sticky).setWidth 32 <<< 3) ||| (op.setWidth 32 <<< 4) ||| (info.setWidth 32 <<< 8)

/-- code(E) of R201; code 0 is success (R28). -/
def errorCode : ErrorKind → BitVec 3
  | .invalidDigit => 1
  | .invalidWidth => 2
  | .fieldOutOfRange => 3
  | .illegalCommand => 4

/-- EINFO of an IllegalCommand: bit 0 = reserved opcode, bit 1 = a non-zero MBZ bit (R202, R74). -/
def illegalInfo : IllegalCause → BitVec 8
  | .reservedOpcode others => if others then 0x03 else 0x01
  | .mbzField => 0x02

/-- ST after `raise E(info)` in a command with opcode field `op` (R204). -/
def raisedStatus (op : BitVec 4) (e : ErrorKind) (info : BitVec 8) : Word :=
  statusWord (errorCode e) true op info

/-- ST after a command other than CLRST succeeds; `old` is ST before it, whose STICKY is kept (R205). -/
def successStatus (op : BitVec 4) (old : Word) : Word :=
  statusWord 0 (stSticky old) op 0

end Sys2Proof.Machine
end

