-- ==== Sys2Proof/Machine/Ops.lean ====
section
/-!
DEFINITION. The named operations over the registers: reading and writing slots (20_memory R51, R52), raising
an error (60_exceptions R204), the success update (R205), how a command ends (00_scope R12), reset
(70_reset R230), and the host's moving on to its next access (10_state R24).
-/

namespace Sys2Proof.Machine

/-- The value of slot `k` (R20); "0 for k in 13..15" (R51, R33). -/
def State.slot (s : State) (k : Slot) : Word :=
  match k.toNat with
  | 0 => s.a
  | 1 => s.b
  | 2 => s.c
  | 3 => s.cmd
  | 4 => s.st
  | 5 => s.r0
  | 6 => s.r1
  | 7 => s.r2
  | 8 => s.r3
  | 9 => s.dig0
  | 10 => s.dig1
  | 11 => s.dig2
  | 12 => s.dig3
  | _ => 0

/-- What a host write stores (R52): A, B, C, CMD and DIG0 to DIG3 take the value; ST, R0 to R3 (R34) and slots
13 to 15 (R33) do not. The command a CMD write runs is no part of this: see `hostWrite`. -/
def State.storeSlot (s : State) (k : Slot) (v : Word) : State :=
  match k.toNat with
  | 0 => { s with a := v }
  | 1 => { s with b := v }
  | 2 => { s with c := v }
  | 3 => { s with cmd := v }
  | 9 => { s with dig0 := v }
  | 10 => { s with dig1 := v }
  | 11 => { s with dig2 := v }
  | 12 => { s with dig3 := v }
  | _ => s

/-- `raise E(info)` in a command with opcode field `op`: writes ST and no other register (R204, R12). The
block's one way of signalling an error; nothing is vectored and no mode changes (R200, R207), so there is no
return from it (R208). -/
def State.raise (s : State) (op : BitVec 4) (e : ErrorKind) (info : BitVec 8) : State :=
  { s with st := raisedStatus op e info }

/-- The success update of every command but CLRST (R205). -/
def State.succeed (s : State) (op : BitVec 4) : State :=
  { s with st := successStatus op s.st }

/-- Writes result register R0 (R22). -/
def State.setR0 (s : State) (v : Word) : State := { s with r0 := v }

/-- Writes all four result registers, FC_DECOMP's destinations (R161). -/
def State.setResults (s : State) (v0 v1 v2 v3 : Word) : State :=
  { s with r0 := v0, r1 := v1, r2 := v2, r3 := v3 }

/-- Writes all 32 digit cells, as the words DIG0 to DIG3 (R32). -/
def State.setDigits (s : State) (d0 d1 d2 d3 : Word) : State :=
  { s with dig0 := d0, dig1 := d1, dig2 := d2, dig3 := d3 }

/-- How a command ends. Its checks and results are computed first, from `s` alone; a failed check raises and
writes nothing else, a passed one commits the results and then ST, in one step (R12, R55, R204, R205). -/
def finish (op : BitVec 4) (s : State) (result : Except (ErrorKind × BitVec 8) State) :
    Host.Outcome State Fault Refusal :=
  match result with
  | .error (e, info) => .next (s.raise op e info)
  | .ok t => .next (t.succeed op)

/-- Reset asserted: "every implemented slot takes the value of R37, whatever it held" (R230). The host's side
is not the block's and keeps its place (log 2). -/
def State.resetBlock (s : State) : State :=
  { State.reset with position := s.position, pending := s.pending, returned := s.returned }

/-- The host's current action leaves its list. -/
def State.takeAction (s : State) (rest : List HostAction) : State := { s with pending := rest }

/-- An access has finished: the position "goes up by one after each access" (R24). -/
def State.countAccess (s : State) : State := { s with position := s.position + 1 }

/-- A read gives the host a value (R51, R64). -/
def State.giveBack (s : State) (v : Word) : State := { s with returned := s.returned ++ [v] }

end Sys2Proof.Machine
end

