-- ==== Sys2Proof/Machine/Operands.lean ====
section
/-!
DEFINITION. Every operand form: radices and widths (00_scope R13), the digit buffer read as a sequence
(10_state R31), Horner's step (40_radix_converter R103, R104), the digits of a number (R105), width-w values
in a 32-bit register (41_twos_complement R131), float fields (42_float32_codec R160), and the slot a host
address names (20_memory R53).
-/

namespace Sys2Proof.Machine

/-- `radix(Rbit)` of R13. -/
def radixValue : Radix → Nat
  | .two => 2
  | .ten => 10

/-- `W(code)` of R13; code 0b11 has no width. -/
def widthOf : WidthCode → Option Nat
  | .w8 => some 8
  | .w16 => some 16
  | .w32 => some 32
  | .reserved => none

/-! The digit buffer. -/

/-- Digit word `j`, slot 9 + j (R31). There are four; no well-formed command reads past them (R77, R234; log 7). -/
def State.digitWord (s : State) (j : Nat) : Word :=
  match j with
  | 0 => s.dig0
  | 1 => s.dig1
  | 2 => s.dig2
  | 3 => s.dig3
  | _ => 0

/-- DIG[i], the 4-bit cell of R31: slot 9 + i div 8, bits 4·(i mod 8)+3 down to 4·(i mod 8). -/
def State.digit (s : State) (i : Nat) : Digit :=
  (s.digitWord (i / 8)).extractLsb' (4 * (i % 8)) 4

/-- DIG[0] to DIG[n-1] as numbers, the most significant first (R31, R104). -/
def State.digitSeq (s : State) (n : Nat) : List Nat :=
  (List.range n).map fun i => (s.digit i).toNat

/-- The index of the first digit that is not valid for radix `r`: "valid for radix r exactly when uint(d) < r"
(R102, R104). -/
def firstInvalid (r : Nat) (ds : List Nat) : Option Nat :=
  ds.findIdx? fun d => decide (r ≤ d)

/-- One Horner step, the modular multiply-add (R103): (acc·r + d) mod 2^32. -/
def hornerStep (r : Nat) (acc : Word) (d : Nat) : Word :=
  BitVec.ofNat 32 (acc.toNat * r + d)

/-- Horner's accumulation, most significant digit first (R104). -/
def horner (r : Nat) (ds : List Nat) : Word :=
  ds.foldl (hornerStep r) 0

/-- The digits of `t` by repeated division, least significant first: the loop of R105, which runs at least
once and ends when the quotient is zero. The first argument bounds the rounds; 32 are enough for every 32-bit
`t` (R109; `divDigits_eq_digits` in Laws/Operands.lean; log 8). -/
def divDigits (r : Nat) : Nat → Nat → List Nat
  | 0, _ => []
  | fuel + 1, t => (t % r) :: (if t / r = 0 then [] else divDigits r fuel (t / r))

/-- The digits RC_ENCODE writes: "reversed: most-significant first" (R105). -/
def encodeDigits (r : Nat) (v : Word) : List Nat :=
  (divDigits r 32 v.toNat).reverse

/-- Word `j` of the digit buffer holding the sequence `ds`, zero in the cells past its end (R31, R105). -/
def packDigits (ds : List Nat) (j : Nat) : Word :=
  let cell : Nat → Word := fun i => (BitVec.ofNat 4 (ds.getD (8 * j + i) 0)).setWidth 32 <<< (4 * i)
  cell 0 ||| cell 1 ||| cell 2 ||| cell 3 ||| cell 4 ||| cell 5 ||| cell 6 ||| cell 7

/-! Width-w values. -/

/-- The width-w operand A[w-1:0]; bits A[31:w] are ignored (R131). -/
def State.operandA (s : State) (w : Nat) : BitVec w := s.a.setWidth w

/-- A width-w result in a register: zext_32 (R131). -/
def zext32 {w : Nat} (b : BitVec w) : Word := b.setWidth 32

/-- The w-bit two's-complement negation, "bitwise complement followed by adding 1" (R132). -/
def negate {w : Nat} (a : BitVec w) : BitVec w := ~~~a + 1

/-- The InvalidWidth detail of a pair of codes: bit 0 = WF is 0b11, bit 1 = WT is 0b11 (R134, R135, R202). -/
def widthCodeMask (wf wt : WidthCode) : BitVec 8 :=
  (if wf = .reserved then 0x01 else 0) ||| (if wt = .reserved then 0x02 else 0)

/-- Both widths of a two-width command, or the InvalidWidth detail of its reserved codes, reported together in
one mask (R134, R135, R203). -/
def widthPair (wf wt : WidthCode) : Except (ErrorKind × BitVec 8) (Nat × Nat) :=
  match widthOf wf, widthOf wt with
  | some f, some t => .ok (f, t)
  | _, _ => .error (.invalidWidth, widthCodeMask wf wt)

/-! Float32 fields (R160). -/

/-- The sign, bit 31. -/
def floatSign (p : Word) : BitVec 1 := p.extractLsb' 31 1
/-- The exponent field, bits 30:23, raw. -/
def floatExponent (p : Word) : BitVec 8 := p.extractLsb' 23 8
/-- The mantissa, bits 22:0, raw: "no implicit leading 1 is added or assumed". -/
def floatMantissa (p : Word) : BitVec 23 := p.extractLsb' 0 23

/-- The pattern with these fields: sign<<31 | exponent<<23 | mantissa (R160, R162). -/
def floatPattern (sign : BitVec 1) (exponent : BitVec 8) (mantissa : BitVec 23) : Word :=
  (sign.setWidth 32 <<< 31) ||| (exponent.setWidth 32 <<< 23) ||| mantissa.setWidth 32

/-- The mask of the fields out of range, each operand read as a whole 32-bit number (R162, R202). -/
def fieldRangeMask (sign exponent mantissa : Word) : BitVec 8 :=
  (if sign.toNat > 1 then 0x01 else 0)
    ||| (if exponent.toNat > 255 then 0x02 else 0)
    ||| (if mantissa.toNat > 0x7FFFFF then 0x04 else 0)

/-! The byte-addressed view (R53). -/

/-- The slot of an `nbytes`-wide access at `addr`: four bytes at BASE + 4k for some k in 0..15. None for every
other access, which "is not a transaction of the block" (R53). -/
def busSlot (addr nbytes : Nat) : Option Slot :=
  if nbytes = 4 ∧ Config.base ≤ addr ∧ addr < Config.base + 64 ∧ (addr - Config.base) % 4 = 0 then
    some (BitVec.ofNat 4 ((addr - Config.base) / 4))
  else
    none

end Sys2Proof.Machine
end

