-- ==== Sys2Proof/Machine/Float32Codec.lean ====
section
/-!
DEFINITION. The float32 field codec: FC_DECOMP, FC_COMP (42_float32_codec R161, R162). Patterns of NaN,
infinity and subnormal numbers pass through unchanged (R164).
-/

namespace Sys2Proof.Machine

/-- FC_DECOMP (R161): R0 sign, R1 exponent field, R2 mantissa, R3 exponent field - 127 mod 2^32. Every pattern
is accepted. -/
def execFcDecomp (s : State) : Host.Outcome State Fault Refusal :=
  finish opFcDecomp s <|
    .ok (s.setResults (zext32 (floatSign s.a)) (zext32 (floatExponent s.a)) (zext32 (floatMantissa s.a))
      (zext32 (floatExponent s.a) - 127))

/-- FC_COMP (R162): FieldOutOfRange with the mask of every operand out of range, else R0 <- the pattern of
A[0], B[7:0] and C[22:0]. -/
def execFcComp (s : State) : Host.Outcome State Fault Refusal :=
  finish opFcComp s <|
    if fieldRangeMask s.a s.b s.c = 0#8 then
      .ok (s.setR0 (floatPattern (s.a.setWidth 1) (s.b.setWidth 8) (s.c.setWidth 23)))
    else .error (.fieldOutOfRange, fieldRangeMask s.a s.b s.c)

end Sys2Proof.Machine
end

