-- ==== Sys2Proof/Machine/RadixConverter.lean ====
section
/-!
DEFINITION. The radix converter unit: RC_MAC, RC_DECODE, RC_ENCODE (40_radix_converter R103 to R105).
-/

namespace Sys2Proof.Machine

/-- RC_MAC (R103): B read whole as the digit; InvalidDigit(0) when it is not below the radix, else
R0 <- (A·r + B) mod 2^32. -/
def execRcMac (r : Radix) (s : State) : Host.Outcome State Fault Refusal :=
  finish opRcMac s <|
    if radixValue r ≤ s.b.toNat then .error (.invalidDigit, 0x00)
    else .ok (s.setR0 (hornerStep (radixValue r) s.a s.b.toNat))

/-- RC_DECODE (R104): InvalidDigit(i) for the first of the `n` digits that is not below the radix, else R0 <-
Horner's value of the digits mod 2^32. Cells past n-1 are not read. -/
def execRcDecode (r : Radix) (n : Nat) (s : State) : Host.Outcome State Fault Refusal :=
  finish opRcDecode s <|
    match firstInvalid (radixValue r) (s.digitSeq n) with
    | some i => .error (.invalidDigit, BitVec.ofNat 8 i)
    | none => .ok (s.setR0 (horner (radixValue r) (s.digitSeq n)))

/-- RC_ENCODE (R105): the digits of uint(A) into the digit buffer, zeros in every cell past them; R0 <- their
count. Every operand is accepted. -/
def execRcEncode (r : Radix) (s : State) : Host.Outcome State Fault Refusal :=
  let ds := encodeDigits (radixValue r) s.a
  finish opRcEncode s <|
    .ok ((s.setDigits (packDigits ds 0) (packDigits ds 1) (packDigits ds 2) (packDigits ds 3)).setR0
      (BitVec.ofNat 32 ds.length))

end Sys2Proof.Machine
end

