-- ==== Sys2Proof/Machine/StatusControl.lean ====
section
/-!
DEFINITION. The status command CLRST (43_status_control R190).
-/

namespace Sys2Proof.Machine

/-- CLRST (R190): ST <- 0x00000000, and nothing else. It does not go through the success update (R205). -/
def execClrst (s : State) : Host.Outcome State Fault Refusal :=
  .next { s with st := 0 }

end Sys2Proof.Machine
end

