-- ==== Sys2Proof/Machine/TwosComplement.lean ====
section
/-!
DEFINITION. The two's-complement unit: TC_NEG, TC_NOT, TC_SEXT, TC_TRUNC (41_twos_complement R132 to R135).
-/

namespace Sys2Proof.Machine

/-- TC_NEG (R132): InvalidWidth(1) for width code 0b11, else R0 <- zext_32((~a + 1) at width w). -/
def execTcNeg (wf : WidthCode) (s : State) : Host.Outcome State Fault Refusal :=
  finish opTcNeg s <|
    match widthOf wf with
    | none => .error (.invalidWidth, 0x01)
    | some w => .ok (s.setR0 (zext32 (negate (s.operandA w))))

/-- TC_NOT (R133): InvalidWidth(1) for width code 0b11, else R0 <- zext_32(~a at width w). -/
def execTcNot (wf : WidthCode) (s : State) : Host.Outcome State Fault Refusal :=
  finish opTcNot s <|
    match widthOf wf with
    | none => .error (.invalidWidth, 0x01)
    | some w => .ok (s.setR0 (zext32 (~~~(s.operandA w))))

/-- TC_SEXT (R134): InvalidWidth for reserved codes, then InvalidWidth(4) for wf > wt ("narrowing asked of
extend"), else R0 <- zext_32(sext_wt(A[wf-1:0])). Equal widths are legal (R138). -/
def execTcSext (wf wt : WidthCode) (s : State) : Host.Outcome State Fault Refusal :=
  finish opTcSext s <|
    match widthPair wf wt with
    | .error e => .error e
    | .ok (f, t) =>
      if f > t then .error (.invalidWidth, 0x04)
      else .ok (s.setR0 (zext32 ((s.operandA f).signExtend t)))

/-- TC_TRUNC (R135): InvalidWidth for reserved codes, then InvalidWidth(4) for wf < wt ("widening asked of
truncate"), else R0 <- zext_32(A[wt-1:0]). Equal widths are legal (R138). -/
def execTcTrunc (wf wt : WidthCode) (s : State) : Host.Outcome State Fault Refusal :=
  finish opTcTrunc s <|
    match widthPair wf wt with
    | .error e => .error e
    | .ok (f, t) =>
      if f < t then .error (.invalidWidth, 0x04)
      else .ok (s.setR0 (zext32 (s.operandA t)))

end Sys2Proof.Machine
end

