-- ==== Sys2Proof/Machine/Dispatch.lean ====
section
/-!
DEFINITION. `exec`: one arm per command, each the command's own meaning.
-/

namespace Sys2Proof.Machine

def exec (i : Instr) (s : State) : Host.Outcome State Fault Refusal :=
  match i with
  | .clrst => Sys2Proof.Machine.execClrst s
  | .rcMac r => Sys2Proof.Machine.execRcMac r s
  | .rcDecode r n => Sys2Proof.Machine.execRcDecode r n s
  | .rcEncode r => Sys2Proof.Machine.execRcEncode r s
  | .tcNeg wf => Sys2Proof.Machine.execTcNeg wf s
  | .tcNot wf => Sys2Proof.Machine.execTcNot wf s
  | .tcSext wf wt => Sys2Proof.Machine.execTcSext wf wt s
  | .tcTrunc wf wt => Sys2Proof.Machine.execTcTrunc wf wt s
  | .fcDecomp => Sys2Proof.Machine.execFcDecomp s
  | .fcComp => Sys2Proof.Machine.execFcComp s

end Sys2Proof.Machine
end

