-- ==== Sys2Proof/Machine/HostAccess.lean ====
section
/-!
DEFINITION. What each host action does to the block (20_memory R51 to R53, 30_encoding R74, 70_reset R230, R231).
-/

namespace Sys2Proof.Machine

/-- Execute(v) (R74): runs the command the word names, or raises IllegalCommand with LASTOP = v[3:0]. -/
def execute (v : Word) (s : State) : Host.Outcome State Fault Refusal :=
  match decode v with
  | .ok i => exec i s
  | .error cause => .next (s.raise (fieldOP v) .illegalCommand (illegalInfo cause))

/-- HostWrite(k, v) (R52): the slot takes the value where it is writable; a CMD write then runs the word, in
the same step (R26, R55). -/
def hostWrite (k : Slot) (v : Word) (s : State) : Host.Outcome State Fault Refusal :=
  if k = 3 then execute v (s.storeSlot k v) else .next (s.storeSlot k v)

/-- HostRead(k) (R51): the slot's value goes back to the host; the block does not change. -/
def hostRead (k : Slot) (s : State) : Host.Outcome State Fault Refusal :=
  .next (s.giveBack (s.slot k))

/-- One action of the host on a state whose list it has left. An access counts one position (R24). A
byte-addressed access is the slot access of R53 or is refused. Reset between accesses is no access; reset during
a held CMD write abandons the command, and "The host's held CMD write completes with no effect" (R231). -/
def hostAction (x : HostAction) (s : State) : Host.Outcome State Fault Refusal :=
  match x with
  | .read k => hostRead k s.countAccess
  | .write k v => hostWrite k v s.countAccess
  | .busRead addr nbytes =>
    match busSlot addr nbytes with
    | some k => hostRead k s.countAccess
    | none => .refused (.notATransaction addr nbytes)
  | .busWrite addr nbytes v =>
    match busSlot addr nbytes with
    | some k => hostWrite k v s.countAccess
    | none => .refused (.notATransaction addr nbytes)
  | .reset => .next s.resetBlock
  | .resetDuringCmd _ => .next s.countAccess.resetBlock

/-- One step of the machine: the host's next action. With none pending the block is quiescent, "because it has
no state that advances on its own" (R65, R215), and nothing changes. -/
def hostStep (s : State) : Host.Outcome State Fault Refusal :=
  match s.pending with
  | [] => .next s
  | x :: rest => hostAction x (s.takeAction rest)

/-- The host's list with a write of the command word `v` to CMD (slot 3) as its next action. -/
def State.withCommand (s : State) (v : Word) : State :=
  { s with pending := .write 3 v :: s.pending }

end Sys2Proof.Machine
end

