-- ==== Sys2Proof/Machine/Step.lean ====
section
/-!
DEFINITION. `step`, and where the next command comes from. The block fetches nothing (10_state R24): a command
runs when the host writes its word to CMD, so the next command stands at the head of the host's actions.
-/

namespace Sys2Proof.Machine

/-- One step: the next host action, with the command it starts run atomically inside it (R55). -/
def step (s : State) : Host.Outcome State Fault Refusal := hostStep s

/-- `s` with the word of the opcode table's bits as the host's next access, a write to CMD (R26; log 1). -/
def State.withFetchWord (s : State) (nbits w : Nat) : State := s.withCommand (tableWord nbits w)

end Sys2Proof.Machine
end

