-- ==== Sys2Proof/Machine/Assembler.lean ====
section
/-!
DEFINITION. The written forms of the spec: the command syntax of 30_encoding R81, the pseudo-commands of R82,
the host-program lines of R84, and the rendering function of 41_twos_complement R139. None of them is part of
the block; a program reaches it as the host's actions.
-/

namespace Sys2Proof.Machine

/-- A command as R81 writes it: its name, then the `key=value` pairs it has. A pair that is left out is
`none`; `raw` writes any word, illegal ones included. -/
inductive AsmCommand where
  | clrst
  | rcMac (r : Option Nat)
  | rcDecode (r n : Option Nat)
  | rcEncode (r : Option Nat)
  | tcNeg (w : Option Nat)
  | tcNot (w : Option Nat)
  | tcSext (fromW toW : Option Nat)
  | tcTrunc (fromW toW : Option Nat)
  | fcDecomp
  | fcComp
  | raw (v : Word)
  deriving DecidableEq, Repr

/-- `r=2` or `r=10` gives field R; "A field the syntax omits is 0" (R81). -/
def asmRadix : Option Nat → Option (BitVec 1)
  | none => some 0
  | some r => if r = 2 then some 0 else if r = 10 then some 1 else none

/-- `w=8|16|32`, and the same values of `from` and `to`, give a width code (R81). -/
def asmWidth : Option Nat → Option (BitVec 2)
  | none => some 0
  | some w => if w = 8 then some 0b00 else if w = 16 then some 0b01 else if w = 32 then some 0b10 else none

/-- `n=1..32` gives L = n - 1 (R81). -/
def asmCount : Option Nat → Option (BitVec 5)
  | none => some 0
  | some n => if 1 ≤ n ∧ n ≤ 32 then some (encodeCount n) else none

/-- The command word of a written command (R81); none for a value the syntax does not list. -/
def AsmCommand.word : AsmCommand → Option Word
  | .clrst => some (cmdWord opClrst 0 0 0 0)
  | .rcMac r => (asmRadix r).map fun b => cmdWord opRcMac b 0 0 0
  | .rcDecode r n => (asmRadix r).bind fun b => (asmCount n).map fun l => cmdWord opRcDecode b 0 0 l
  | .rcEncode r => (asmRadix r).map fun b => cmdWord opRcEncode b 0 0 0
  | .tcNeg w => (asmWidth w).map fun c => cmdWord opTcNeg 0 c 0 0
  | .tcNot w => (asmWidth w).map fun c => cmdWord opTcNot 0 c 0 0
  | .tcSext f t => (asmWidth f).bind fun c => (asmWidth t).map fun d => cmdWord opTcSext 0 c d 0
  | .tcTrunc f t => (asmWidth f).bind fun c => (asmWidth t).map fun d => cmdWord opTcTrunc 0 c d 0
  | .fcDecomp => some (cmdWord opFcDecomp 0 0 0 0)
  | .fcComp => some (cmdWord opFcComp 0 0 0 0)
  | .raw v => some v

/-- The pseudo-commands of R82, in the table's order. -/
inductive Pseudo where
  | rcMac2
  | rcMac10
  | rcDec2 (n : Nat)
  | rcDec10 (n : Nat)
  | rcEnc2
  | rcEnc10
  | tcNeg8
  | tcNeg16
  | tcNeg32
  | tcNot8
  | tcNot16
  | tcNot32
  | tcSext8to16
  | tcSext8to32
  | tcSext16to32
  | tcTrunc32to16
  | tcTrunc32to8
  | tcTrunc16to8
  | fcDecomp
  | fcComp
  | clrst
  deriving DecidableEq, Repr

/-- The expansion column of R82. -/
def Pseudo.expand : Pseudo → AsmCommand
  | .rcMac2 => .rcMac (some 2)
  | .rcMac10 => .rcMac (some 10)
  | .rcDec2 n => .rcDecode (some 2) (some n)
  | .rcDec10 n => .rcDecode (some 10) (some n)
  | .rcEnc2 => .rcEncode (some 2)
  | .rcEnc10 => .rcEncode (some 10)
  | .tcNeg8 => .tcNeg (some 8)
  | .tcNeg16 => .tcNeg (some 16)
  | .tcNeg32 => .tcNeg (some 32)
  | .tcNot8 => .tcNot (some 8)
  | .tcNot16 => .tcNot (some 16)
  | .tcNot32 => .tcNot (some 32)
  | .tcSext8to16 => .tcSext (some 8) (some 16)
  | .tcSext8to32 => .tcSext (some 8) (some 32)
  | .tcSext16to32 => .tcSext (some 16) (some 32)
  | .tcTrunc32to16 => .tcTrunc (some 32) (some 16)
  | .tcTrunc32to8 => .tcTrunc (some 32) (some 8)
  | .tcTrunc16to8 => .tcTrunc (some 16) (some 8)
  | .fcDecomp => .fcDecomp
  | .fcComp => .fcComp
  | .clrst => .clrst

/-- The word column of R82. -/
def Pseudo.tableWord : Pseudo → Word
  | .rcMac2 => 0x00000001
  | .rcMac10 => 0x00000011
  | .rcDec2 n => 0x00000002 + BitVec.ofNat 32 ((n - 1) * 0x200)
  | .rcDec10 n => 0x00000012 + BitVec.ofNat 32 ((n - 1) * 0x200)
  | .rcEnc2 => 0x00000003
  | .rcEnc10 => 0x00000013
  | .tcNeg8 => 0x00000004
  | .tcNeg16 => 0x00000024
  | .tcNeg32 => 0x00000044
  | .tcNot8 => 0x00000005
  | .tcNot16 => 0x00000025
  | .tcNot32 => 0x00000045
  | .tcSext8to16 => 0x00000086
  | .tcSext8to32 => 0x00000106
  | .tcSext16to32 => 0x00000126
  | .tcTrunc32to16 => 0x000000C7
  | .tcTrunc32to8 => 0x00000047
  | .tcTrunc16to8 => 0x00000027
  | .fcDecomp => 0x00000008
  | .fcComp => 0x00000009
  | .clrst => 0x00000000

/-- A line of a host program (R84). `rd` carries the value the line says the read gives. -/
inductive ProgramLine where
  | wr (k : Slot) (v : Word)
  | cmd (x : AsmCommand)
  | rd (k : Slot) (v : Word)
  deriving DecidableEq, Repr

/-- The host access of a line (R84): none for a command the syntax does not have. -/
def ProgramLine.action : ProgramLine → Option HostAction
  | .wr k v => some (.write k v)
  | .cmd x => x.word.map fun v => .write 3 v
  | .rd k _ => some (.read k)

/-- The values a program's reads are said to give, in order (R84). -/
def programReads (lines : List ProgramLine) : List Word :=
  lines.filterMap fun x => match x with
    | .wr _ _ => none
    | .cmd _ => none
    | .rd _ v => some v

/-- A program's encoding: "the list of pairs (slot, value) of its writes, in order, with each CMD written as its
32-bit word" (R84). -/
def programEncoding (lines : List ProgramLine) : List (Slot × Word) :=
  (lines.filterMap ProgramLine.action).filterMap fun x => match x with
    | .write k v => some (k, v)
    | .read _ => none
    | .busRead _ _ => none
    | .busWrite _ _ _ => none
    | .reset => none
    | .resetDuringCmd _ => none

/-- The machine with a host program as its actions to come, from line 1 (R24, R84). -/
def State.withProgram (s : State) (lines : List ProgramLine) : State :=
  { s with position := 1, pending := lines.filterMap ProgramLine.action }

/-- `render_w(v)`: the w bits of `v`, '0' or '1', most significant first, the sign bit included (R139). -/
def render {w : Nat} (v : BitVec w) : List Char :=
  (List.range w).map fun i => if v.getLsbD (w - 1 - i) then '1' else '0'

end Sys2Proof.Machine
end

