-- ==== Sys2Proof/Safety.lean ====
section
/-!
DEFINITION. The terms statements about runs are made in: the status register's invariant (10_state R27 to R30,
60_exceptions R201, R202), which bits of a command word must be zero (30_encoding R72), what each command reads
(10_state R38), and a chain of RC_MAC steps (40_radix_converter R106).
-/

namespace Sys2Proof.Machine

/-- ST[31:16] reads 0 and LASTOP is the opcode of the word CMD holds (R27, R30). -/
abbrev StatusTracksCmd (s : State) : Prop :=
  stReserved s.st = 0 ∧ stLastop s.st = fieldOP s.cmd

/-- The ERR code, STICKY and EINFO fit together: code 0 has no detail and every other code leaves STICKY set
(R29, R30); each kind is raised only by the commands R201 names and with the details R202 gives; codes 5 to 7
are never produced (R28). -/
abbrev StatusDetail (st : Word) : Prop :=
  (stErr st = 0 ∧ stEinfo st = 0) ∨
  (stErr st = 1 ∧ stSticky st = true ∧
    ((stLastop st = opRcMac ∧ stEinfo st = 0) ∨ (stLastop st = opRcDecode ∧ (stEinfo st).toNat < 32))) ∨
  (stErr st = 2 ∧ stSticky st = true ∧
    (((stLastop st = opTcNeg ∨ stLastop st = opTcNot) ∧ stEinfo st = 1) ∨
      ((stLastop st = opTcSext ∨ stLastop st = opTcTrunc) ∧ 1 ≤ (stEinfo st).toNat ∧ (stEinfo st).toNat ≤ 4))) ∨
  (stErr st = 3 ∧ stSticky st = true ∧ stLastop st = opFcComp ∧
    1 ≤ (stEinfo st).toNat ∧ (stEinfo st).toNat ≤ 7) ∨
  (stErr st = 4 ∧ stSticky st = true ∧
    (((stLastop st).toNat < 10 ∧ stEinfo st = 2) ∨
      (10 ≤ (stLastop st).toNat ∧ (stEinfo st = 1 ∨ stEinfo st = 3))))

/-- The invariant of the block: the status register is one the rules can leave. -/
abbrev StatusInv (s : State) : Prop := StatusTracksCmd s ∧ StatusDetail s.st

/-- Bit `j` of a command word with opcode `op` is part of no field that `op` uses, so it must be zero. The fields
and their bits are R71's, the fields each opcode uses are R72's. -/
def mbzBit (op : BitVec 4) (j : Nat) : Bool :=
  (14 ≤ j && j < 32) ||
  (j == 4 && !(op == opRcMac || op == opRcDecode || op == opRcEncode)) ||
  ((j == 5 || j == 6) && !(op == opTcNeg || op == opTcNot || op == opTcSext || op == opTcTrunc)) ||
  ((j == 7 || j == 8) && !(op == opTcSext || op == opTcTrunc)) ||
  (9 ≤ j && j < 14 && !(op == opRcDecode))

/-- A row of R73, whole: every word that `mask` and `pattern` select names its command, and every other word with
the pattern's opcode has an MBZ bit set, so that writing it to CMD raises IllegalCommand with EINFO = 0x02 and writes
nothing but CMD and ST (R79). -/
def EncodedBy (pattern mask : Word) (command : Word → Instr) : Prop :=
  (∀ v : Word, v &&& mask = pattern → decode v = .ok (command v)) ∧
  (∀ (v : Word) (s : State), fieldOP v = fieldOP pattern → v &&& mask ≠ pattern →
    hostWrite 3 v s = .next { s with cmd := v, st := statusWord 4 true (fieldOP pattern) 0x02 })

/-- The operands `i` reads hold the same values in both states: the "reads" column of R38, where of A a width-w
command reads only the low w bits (R131). -/
def SameReads (i : Instr) (s t : State) : Prop :=
  match i with
  | .clrst => True
  | .rcMac _ => s.a = t.a ∧ s.b = t.b
  | .rcDecode _ n => ∀ k, k < n → s.digit k = t.digit k
  | .rcEncode _ => s.a = t.a
  | .tcNeg wf => ∀ w, widthOf wf = some w → s.operandA w = t.operandA w
  | .tcNot wf => ∀ w, widthOf wf = some w → s.operandA w = t.operandA w
  | .tcSext wf _ => ∀ w, widthOf wf = some w → s.operandA w = t.operandA w
  | .tcTrunc _ wt => ∀ w, widthOf wt = some w → s.operandA w = t.operandA w
  | .fcDecomp => s.a = t.a
  | .fcComp => s.a = t.a ∧ s.b = t.b ∧ s.c = t.c

/-- The registers `i` writes when it succeeds hold the same values in both states: the "writes on success" column
of R38, ST apart. -/
def SameResults (i : Instr) (s t : State) : Prop :=
  match i with
  | .clrst => True
  | .rcMac _ => s.r0 = t.r0
  | .rcDecode _ _ => s.r0 = t.r0
  | .rcEncode _ =>
    s.r0 = t.r0 ∧ s.dig0 = t.dig0 ∧ s.dig1 = t.dig1 ∧ s.dig2 = t.dig2 ∧ s.dig3 = t.dig3
  | .tcNeg _ => s.r0 = t.r0
  | .tcNot _ => s.r0 = t.r0
  | .tcSext _ _ => s.r0 = t.r0
  | .tcTrunc _ _ => s.r0 = t.r0
  | .fcDecomp => s.r0 = t.r0 ∧ s.r1 = t.r1 ∧ s.r2 = t.r2 ∧ s.r3 = t.r3
  | .fcComp => s.r0 = t.r0

/-- The host's chain of R106: for each digit in order, write it to B, run RC_MAC, copy R0 into A. It stops where a
step does not answer a next state. -/
def macChain (r : Radix) : List Nat → State → Host.Outcome State Fault Refusal
  | [], s => .next s
  | d :: ds, s =>
    match exec (.rcMac r) { s with b := BitVec.ofNat 32 d } with
    | .next t => macChain r ds { t with a := t.r0 }
    | .fault e => .fault e
    | .refused e => .refused e

/-- The action is an access of the host, which counts one position (R24); the reset input alone is none. -/
def HostAction.isAccess : HostAction → Bool
  | .read _ => true
  | .write _ _ => true
  | .busRead _ _ => true
  | .busWrite _ _ _ => true
  | .reset => false
  | .resetDuringCmd _ => true

/-- The action is a byte-addressed access that names no slot of the block (R53). -/
def HostAction.NoTransaction : HostAction → Prop
  | .read _ => False
  | .write _ _ => False
  | .busRead addr n => ¬ (n = 4 ∧ ∃ k : Slot, addr = Config.base + 4 * k.toNat)
  | .busWrite addr n _ => ¬ (n = 4 ∧ ∃ k : Slot, addr = Config.base + 4 * k.toNat)
  | .reset => False
  | .resetDuringCmd _ => False

/-- The action asserts the reset input (R230, R231). -/
def HostAction.isReset : HostAction → Bool
  | .read _ => false
  | .write _ _ => false
  | .busRead _ _ => false
  | .busWrite _ _ _ => false
  | .reset => true
  | .resetDuringCmd _ => true

/-- The word this action writes to CMD, through either view of the slot (R52, R53). -/
def HostAction.commandWord? : HostAction → Option Word
  | .read _ => none
  | .write k v => if k = 3 then some v else none
  | .busRead _ _ => none
  | .busWrite addr n v => if busSlot addr n = some 3 then some v else none
  | .reset => none
  | .resetDuringCmd _ => none

end Sys2Proof.Machine
end

