-- ==== Sys2Proof/Certificates/Slice0/Obligations.lean ====
section
/-!
DEFINITION. The statements about the block, each a `Prop`, none proved here. A statement's docstring names the rule
of the spec it formalises.
-/

open Sys2Proof Sys2Proof.Machine

/-! The command word. -/

/-- 30_encoding R71, R73, R74: encoding and decoding agree on every well-formed command, at every field value. -/
def Obligations.EncodedCommandDecodesToItself : Prop :=
  ∀ i : Instr, i.WellFormed → decode (encode i) = .ok i

/-- 30_encoding R72, R73, R74: a word that names a command is that command's encoding, so each command has one word;
its OP field is the command's opcode. -/
def Obligations.DecodedWordIsItsCommandsEncoding : Prop :=
  ∀ (v : Word) (i : Instr), decode v = .ok i → i.WellFormed ∧ encode i = v ∧ i.opcode = fieldOP v

/-- 30_encoding R81 and R82, 95_test_vectors: words the spec writes out, and the commands they stand for. -/
def Obligations.SpecWordsNameTheirCommands : Prop :=
  decode 0x00000000 = .ok .clrst ∧
  decode 0x00000011 = .ok (.rcMac .ten) ∧
  decode 0x00000412 = .ok (.rcDecode .ten 3) ∧
  decode 0x00003E02 = .ok (.rcDecode .two 32) ∧
  decode 0x00000013 = .ok (.rcEncode .ten) ∧
  decode 0x00000024 = .ok (.tcNeg .w16) ∧
  decode 0x00000065 = .ok (.tcNot .reserved) ∧
  decode 0x00000086 = .ok (.tcSext .w8 .w16) ∧
  decode 0x000000C7 = .ok (.tcTrunc .w32 .w16) ∧
  decode 0x00000008 = .ok .fcDecomp ∧
  decode 0x00000009 = .ok .fcComp ∧
  decode 0x0000001F = .error (.reservedOpcode true) ∧
  decode 0x00004011 = .error .mbzField

/-- 00_scope R13, 30_encoding R75, R76, R77: what the values of the R, WF, WT and L fields name. -/
def Obligations.SelectorFieldsNameTheirValues : Prop :=
  (∀ b : BitVec 1, radixValue (decodeRadix b) = if b.toNat = 0 then 2 else 10) ∧
  (∀ c : BitVec 2, widthOf (decodeWidth c) = [some 8, some 16, some 32, none].getD c.toNat none) ∧
  (∀ l : BitVec 5, decodeCount l = l.toNat + 1)

/-- 30_encoding R72, R74, R79: a word names a command exactly when its opcode is one of the ten and every bit of every
field the opcode does not use is zero. -/
def Obligations.WordNamesCommandWhenUnusedBitsAreZero : Prop :=
  ∀ v : Word, (∃ i, decode v = .ok i) ↔
    (fieldOP v).toNat < 10 ∧ ∀ j, j < 32 → mbzBit (fieldOP v) j = true → v.getLsbD j = false

/-- 30_encoding R78: a CMD write with opcode 0xA to 0xF raises IllegalCommand, whatever its other bits. -/
def Obligations.ReservedOpcodeRaisesIllegalCommand : Prop :=
  ∀ (s : State) (v : Word), 10 ≤ (fieldOP v).toNat →
    hostWrite 3 v s = .next { s with
      cmd := v
      st := statusWord 4 true (fieldOP v) (0x01 ||| if v.toNat / 16 = 0 then 0x00 else 0x02) }

/-- 30_encoding R79: a CMD write with a defined opcode and a non-zero MBZ bit raises IllegalCommand with EINFO = 0x02;
the command does not run and no result or digit register changes. CLRST's opcode is no exception. -/
def Obligations.NonzeroMbzFieldRaisesIllegalCommand : Prop :=
  ∀ (s : State) (v : Word) (j : Nat), (fieldOP v).toNat < 10 → j < 32 → mbzBit (fieldOP v) j = true →
    v.getLsbD j = true →
    hostWrite 3 v s = .next { s with cmd := v, st := statusWord 4 true (fieldOP v) 0x02 }

/-- 30_encoding R82: every pseudo-command expands to the written command the table gives, whose word is the table's. -/
def Obligations.PseudoCommandsHaveTheTablesWords : Prop :=
  ∀ p : Pseudo, (∀ n, p = .rcDec2 n ∨ p = .rcDec10 n → 1 ≤ n ∧ n ≤ 32) → p.expand.word = some p.tableWord

/-! The host and the slots. -/

/-- 30_encoding R74, 10_state R26: a step at a pending CMD write whose word names a command is that command's `exec`, with
the word stored in CMD, the access taken from the host's list and counted. The list is the model's field (log 1). -/
def Obligations.StepRunsTheDecodedCommand : Prop :=
  ∀ (s : State) (v : Word) (rest : List HostAction) (i : Instr),
    s.pending = .write 3 v :: rest → decode v = .ok i → i.WellFormed →
    step s = exec i { s with cmd := v, pending := rest, position := s.position + 1 }

/-- 20_memory R51: a host read gives back the slot's value, 0 for slots 13 to 15, and changes no register. The lists of
actions and of values given back are the model's fields (log 1). -/
def Obligations.HostReadReturnsTheSlot : Prop :=
  ∀ (s : State) (k : Slot) (rest : List HostAction), s.pending = .read k :: rest →
    step s = .next { s with
      pending := rest
      position := s.position + 1
      returned := s.returned ++
        [[s.a, s.b, s.c, s.cmd, s.st, s.r0, s.r1, s.r2, s.r3, s.dig0, s.dig1, s.dig2, s.dig3, 0, 0, 0].getD k.toNat 0] }

/-- 20_memory R52: what a host write does, slot by slot. A write to a writable slot other than CMD stores there and
nowhere else; to CMD it stores and runs; to ST, R0 to R3 (R34) and slots 13 to 15 (R33) it does nothing. The host's
lists are the model's fields (log 1). -/
def Obligations.HostWriteActsBySlot : Prop :=
  ∀ (s : State) (k : Slot) (v : Word) (rest : List HostAction), s.pending = .write k v :: rest →
    (k ≠ 3 → ∃ t, step s = .next t ∧
      (∀ j : Slot, t.slot j = if j = k ∧ k ∈ ([0, 1, 2, 9, 10, 11, 12] : List Slot) then v else s.slot j) ∧
      t.pending = rest ∧ t.position = s.position + 1 ∧ t.returned = s.returned) ∧
    (k = 3 → step s = execute v { s with cmd := v, pending := rest, position := s.position + 1 })

/-- 20_memory R53: a 4-byte access at BASE + 4k is the access of slot k, BASE is a multiple of 64, and every other
byte-addressed access is refused. The host's list is the model's field (log 1), an address any natural number (log 4). -/
def Obligations.BusAccessIsSlotAccessOrRefused : Prop :=
  Config.base % 64 = 0 ∧
  ∀ (s : State) (rest : List HostAction) (addr n : Nat) (v : Word),
    (∀ k : Slot, addr = Config.base + 4 * k.toNat → n = 4 →
      step { s with pending := .busRead addr n :: rest } = step { s with pending := .read k :: rest } ∧
      step { s with pending := .busWrite addr n v :: rest } = step { s with pending := .write k v :: rest }) ∧
    (¬ (n = 4 ∧ ∃ k : Slot, addr = Config.base + 4 * k.toNat) →
      step { s with pending := .busRead addr n :: rest } = .refused (.notATransaction addr n) ∧
      step { s with pending := .busWrite addr n v :: rest } = .refused (.notATransaction addr n))

/-- 10_state R37, 70_reset R230: reset puts zero in every implemented slot, whatever it held; so ERR, STICKY and every
digit cell are zero, and State.reset holds the same. That the host's list and position stay is the model's (log 2). -/
def Obligations.ResetClearsEverySlot : Prop :=
  (∀ k : Slot, State.reset.slot k = 0) ∧
  ∀ (s : State) (rest : List HostAction), s.pending = .reset :: rest →
    ∃ t, step s = .next t ∧ (∀ k : Slot, t.slot k = 0) ∧ (∀ i, i < 32 → t.digit i = 0) ∧
      stErr t.st = 0 ∧ stSticky t.st = false ∧
      t.pending = rest ∧ t.position = s.position ∧ t.returned = s.returned

/-- 70_reset R231: reset during a held CMD write abandons the command: the state is the reset state, and the write
completes with no effect, whatever its word. That it counts one position is the model's (log 2). -/
def Obligations.ResetDuringCommandAbandonsIt : Prop :=
  ∀ (s : State) (v : Word) (rest : List HostAction), s.pending = .resetDuringCmd v :: rest →
    step s = .next { State.reset with
      pending := rest, position := s.position + 1, returned := s.returned }

/-- 10_state R24, 20_memory R59, R65: a step takes exactly the host's next action, and an access moves the position up by
one; with no action left nothing changes. The lists are the model's fields (log 1), and so is what reset does to the
position (log 2). -/
def Obligations.StepTakesTheNextActionInOrder : Prop :=
  ∀ s t : State, step s = .next t →
    t.pending = s.pending.tail ∧
    t.position = s.position + (if (s.pending.head?.map HostAction.isAccess) = some true then 1 else 0) ∧
    s.returned <+: t.returned ∧
    (s.pending = [] → t = s)

/-- 60_exceptions R200 and R207, 20_memory R53: a step fails to answer only at a byte-addressed access that names no
slot; no command and no error stops the machine. -/
def Obligations.OnlyANonTransactionStopsTheMachine : Prop :=
  ∀ s : State, (∃ t, step s = .next t) ↔ ¬ ∃ x rest, s.pending = x :: rest ∧ x.NoTransaction

/-! The status register. -/

/-- 10_state R27: the fields of ST, each at the bits the rule gives, read as numbers. -/
def Obligations.StatusFieldsSitAtTheirBits : Prop :=
  ∀ st : Word, (stErr st).toNat = st.toNat % 8 ∧ (stSticky st = true ↔ st.toNat / 8 % 2 = 1) ∧
    (stLastop st).toNat = st.toNat / 16 % 16 ∧ (stEinfo st).toNat = st.toNat / 256 % 256 ∧
    (stReserved st).toNat = st.toNat / 65536

/-- 60_exceptions R204: `raise E(info)` writes code(E) | 1 << 3 | op << 4 | info << 8 to ST and no other register, with
the codes of R201. -/
def Obligations.RaiseWritesStatusAndNothingElse : Prop :=
  ∀ (s : State) (op : BitVec 4) (info : BitVec 8) (e : ErrorKind) (code : Nat),
    (e, code) ∈ [(ErrorKind.invalidDigit, 1), (.invalidWidth, 2), (.fieldOutOfRange, 3), (.illegalCommand, 4)] →
    finish op s (.error (e, info)) =
      .next { s with st := BitVec.ofNat 32 (code + 8 + 16 * op.toNat + 256 * info.toNat) }

/-- 60_exceptions R205: a command that succeeds commits its results and then writes ERR = 0, STICKY kept, LASTOP = op,
EINFO = 0. -/
def Obligations.SuccessKeepsStickyAndClearsError : Prop :=
  ∀ (s t : State) (op : BitVec 4),
    finish op s (.ok t) =
      .next { t with st := BitVec.ofNat 32 (8 * (t.st.toNat / 8 % 2) + 16 * op.toNat) }

/-- 10_state R30: every CMD write leaves LASTOP = v[3:0] and ST[31:16] = 0, and EINFO = 0 where the command did not fail;
CMD holds the word (R26). -/
def Obligations.EveryCommandWriteSetsLastop : Prop :=
  ∀ (s t : State) (v : Word), hostWrite 3 v s = .next t →
    stLastop t.st = fieldOP v ∧ stReserved t.st = 0 ∧ (stErr t.st = 0 → stEinfo t.st = 0) ∧ t.cmd = v

/-- 10_state R29: a command that raises sets STICKY, one that succeeds leaves it, and only CLRST and reset clear it; no
other action touches it. -/
def Obligations.StickyIsClearedOnlyByClrstAndReset : Prop :=
  ∀ (s t : State) (x : HostAction) (rest : List HostAction), s.pending = x :: rest → step s = .next t →
    stSticky t.st =
      if x.isReset = true ∨ x.commandWord? = some 0 then false
      else stSticky s.st || (x.commandWord?.isSome && stErr t.st != 0)

/-- 10_state R37, R27: the status invariant holds right after reset. -/
def Obligations.StatusInvariantHoldsAtReset : Prop := StatusInv State.reset

/-- 10_state R27 to R30, 60_exceptions R201, R202: every step keeps the status invariant: ST[31:16] = 0, LASTOP is
CMD.OP, ERR is at most 4, and EINFO, STICKY and LASTOP are ones the error kind allows. -/
def Obligations.EveryStepKeepsTheStatusInvariant : Prop :=
  ∀ s t : State, StatusInv s → step s = .next t → StatusInv t

/-! What every command does, and does not do. -/

/-- 10_state R38, R21, R22, 60_exceptions R200: every command answers a next state, and writes no register outside its row
of R38: never A, B, C or CMD, R1 to R3 only by FC_DECOMP, the digit buffer only by RC_ENCODE, R0 by all but CLRST. -/
def Obligations.EveryCommandCompletesWithinItsWrites : Prop :=
  ∀ (i : Instr) (s : State), ∃ t, exec i s = .next t ∧
    t.a = s.a ∧ t.b = s.b ∧ t.c = s.c ∧ t.cmd = s.cmd ∧
    t.pending = s.pending ∧ t.position = s.position ∧ t.returned = s.returned ∧
    (i ≠ .fcDecomp → t.r1 = s.r1 ∧ t.r2 = s.r2 ∧ t.r3 = s.r3) ∧
    ((∀ r, i ≠ .rcEncode r) →
      t.dig0 = s.dig0 ∧ t.dig1 = s.dig1 ∧ t.dig2 = s.dig2 ∧ t.dig3 = s.dig3) ∧
    (i = .clrst → t.r0 = s.r0)

/-- 00_scope R12, 60_exceptions R207: a command that ends with an error has written ST and nothing else. -/
def Obligations.FailedCommandChangesOnlyStatus : Prop :=
  ∀ (i : Instr) (s t : State), exec i s = .next t → stErr t.st ≠ 0 → t = { s with st := t.st }

/-- 60_exceptions R209, 00_scope R3: a command's status and results are a function of the operands it reads (R38) and the
old STICKY: two states that agree on those get the same ST and, where the command succeeds, the same results. -/
def Obligations.CommandDependsOnlyOnItsReads : Prop :=
  ∀ (i : Instr) (s s' t t' : State), SameReads i s s' → stSticky s.st = stSticky s'.st →
    exec i s = .next t → exec i s' = .next t' →
    t.st = t'.st ∧ (stErr t.st = 0 → SameResults i t t')

/-- 20_memory R56: a CMD write is idempotent: the second write of the same word, with nothing between, leaves every
register as the first left it. -/
def Obligations.RepeatedCommandWriteIsIdempotent : Prop :=
  ∀ (s t : State) (v : Word), hostWrite 3 v s = .next t → hostWrite 3 v t = .next t

/-! CLRST. -/

/-- 43_status_control R190: CLRST writes ST = 0 and nothing else; the all-zero word is its only word. -/
def Obligations.ClrstClearsStatusOnly : Prop :=
  EncodedBy 0x00000000 0xFFFFFFFF (fun _ => .clrst) ∧
  ∀ s : State, exec .clrst s = .next { s with st := 0x00000000 }

/-! The radix converter unit. -/

/-- 10_state R31: DIG[i] is the 4-bit cell at bits 4·(i mod 8)+3 to 4·(i mod 8) of digit word i div 8. -/
def Obligations.DigitCellIsFourBitsOfItsWord : Prop :=
  ∀ (s : State) (i : Nat), i < 32 →
    (s.digit i).toNat = ([s.dig0, s.dig1, s.dig2, s.dig3].getD (i / 8) 0).toNat / 16 ^ (i % 8) % 16

/-- 40_radix_converter R103: RC_MAC. -/
def Obligations.RcMacIsOneHornerStep : Prop :=
  EncodedBy 0x00000001 0xFFFFFFEF (fun v => .rcMac (if v.getLsbD 4 then .ten else .two)) ∧
  ∀ (r : Radix) (s : State),
    (s.b.toNat < radixValue r →
      exec (.rcMac r) s = .next { s with
        r0 := BitVec.ofNat 32 (s.a.toNat * radixValue r + s.b.toNat)
        st := successStatus 0x1 s.st }) ∧
    (radixValue r ≤ s.b.toNat →
      exec (.rcMac r) s = .next { s with st := raisedStatus 0x1 .invalidDigit 0x00 })

/-- 40_radix_converter R104, with R108's closed form of the loop: RC_DECODE. -/
def Obligations.RcDecodeIsHornersValueOrFirstBadDigit : Prop :=
  EncodedBy 0x00000002 0xFFFFC1EF
    (fun v => .rcDecode (if v.getLsbD 4 then .ten else .two) (v.toNat / 512 % 32 + 1)) ∧
  ∀ (r : Radix) (n : Nat) (s : State), 1 ≤ n → n ≤ 32 →
    ((∀ i, i < n → (s.digit i).toNat < radixValue r) →
      exec (.rcDecode r n) s = .next { s with
        r0 := BitVec.ofNat 32 (∑ i ∈ Finset.range n, radixValue r ^ (n - 1 - i) * (s.digit i).toNat)
        st := successStatus 0x2 s.st }) ∧
    (∀ i, i < n → radixValue r ≤ (s.digit i).toNat → (∀ j, j < i → (s.digit j).toNat < radixValue r) →
      exec (.rcDecode r n) s = .next { s with st := raisedStatus 0x2 .invalidDigit (BitVec.ofNat 8 i) })

/-- 40_radix_converter R105: RC_ENCODE. Cell i < k holds the digit of weight r^(k-1-i), the cells past k hold zero. -/
def Obligations.RcEncodeWritesTheDigitsOfA : Prop :=
  EncodedBy 0x00000003 0xFFFFFFEF (fun v => .rcEncode (if v.getLsbD 4 then .ten else .two)) ∧
  ∀ (r : Radix) (s : State), ∃ (k : Nat) (t : State),
    1 ≤ k ∧ k ≤ 32 ∧ (s.a.toNat = 0 → k = 1) ∧
    (s.a.toNat ≠ 0 → radixValue r ^ (k - 1) ≤ s.a.toNat ∧ s.a.toNat < radixValue r ^ k) ∧
    exec (.rcEncode r) s = .next t ∧
    (∀ i, i < 32 → (t.digit i).toNat =
      if i < k then s.a.toNat / radixValue r ^ (k - 1 - i) % radixValue r else 0) ∧
    t = { s with
      r0 := BitVec.ofNat 32 k
      dig0 := t.dig0, dig1 := t.dig1, dig2 := t.dig2, dig3 := t.dig3
      st := successStatus 0x3 s.st }

/-- 40_radix_converter R109: the digit count k(n, r) is the least k with r^k > n (1 for n = 0), the first digit is not 0
unless n = 0, and the table's bounds. -/
def Obligations.EncodedDigitCountIsLeastThatFits : Prop :=
  ∀ (r : Radix) (s t : State), exec (.rcEncode r) s = .next t →
    (s.a.toNat = 0 → t.r0.toNat = 1) ∧
    (1 ≤ s.a.toNat → ∀ m, s.a.toNat < radixValue r ^ m ↔ t.r0.toNat ≤ m) ∧
    (t.digit 0 = 0 ↔ s.a.toNat = 0) ∧
    (s.a.toNat < 2 ^ 31 → r = .two → t.r0.toNat ≤ 31) ∧
    (r = .two → t.r0.toNat ≤ 32) ∧ (r = .ten → t.r0.toNat ≤ 10)

/-- 40_radix_converter R107: for every 32-bit A, RC_ENCODE and then RC_DECODE with the same radix and the count it gave
puts A in R0, with no error. -/
def Obligations.EncodeThenDecodeGivesTheNumberBack : Prop :=
  ∀ (r : Radix) (s : State), ∃ t u : State,
    exec (.rcEncode r) s = .next t ∧ 1 ≤ t.r0.toNat ∧ t.r0.toNat ≤ 32 ∧
    exec (.rcDecode r t.r0.toNat) t = .next u ∧ u.r0 = s.a ∧ stErr u.st = 0

/-- 40_radix_converter R107, the other direction: RC_ENCODE of RC_DECODE's result gives back the digits exactly when
there was no leading zero or just one digit; the value is one that does not wrap. -/
def Obligations.DecodeThenEncodeGivesDigitsBackWithoutLeadingZero : Prop :=
  ∀ (r : Radix) (n : Nat) (s t u : State), 1 ≤ n → n ≤ 32 →
    (∀ i, i < n → (s.digit i).toNat < radixValue r) →
    (∑ i ∈ Finset.range n, radixValue r ^ (n - 1 - i) * (s.digit i).toNat) < 2 ^ 32 →
    exec (.rcDecode r n) s = .next t → exec (.rcEncode r) { t with a := t.r0 } = .next u →
    ((u.r0.toNat = n ∧ ∀ i, i < n → u.digit i = s.digit i) ↔ (s.digit 0 ≠ 0 ∨ n = 1))

/-- 40_radix_converter R106: a chain of RC_MAC steps from A = 0 ends with the R0 that RC_DECODE gives. -/
def Obligations.RcMacChainGivesRcDecodesResult : Prop :=
  ∀ (r : Radix) (n : Nat) (s : State), 1 ≤ n → n ≤ 32 →
    (∀ i, i < n → (s.digit i).toNat < radixValue r) →
    ∃ t u : State, macChain r ((List.range n).map fun i => (s.digit i).toNat) { s with a := 0 } = .next t ∧
      exec (.rcDecode r n) s = .next u ∧ t.r0 = u.r0 ∧ stErr t.st = 0

/-- 40_radix_converter R108: where the true value is below 2^32, RC_MAC and RC_DECODE give it exactly. -/
def Obligations.HornerResultsAreExactBelowTheWrap : Prop :=
  ∀ (r : Radix) (s : State),
    (s.b.toNat < radixValue r → s.a.toNat * radixValue r + s.b.toNat < 2 ^ 32 →
      ∃ t, exec (.rcMac r) s = .next t ∧ t.r0.toNat = s.a.toNat * radixValue r + s.b.toNat) ∧
    (∀ n, 1 ≤ n → n ≤ 32 → (∀ i, i < n → (s.digit i).toNat < radixValue r) →
      (∑ i ∈ Finset.range n, radixValue r ^ (n - 1 - i) * (s.digit i).toNat) < 2 ^ 32 →
      ∃ t, exec (.rcDecode r n) s = .next t ∧
        t.r0.toNat = ∑ i ∈ Finset.range n, radixValue r ^ (n - 1 - i) * (s.digit i).toNat)

/-! The two's-complement unit. -/

/-- 41_twos_complement R132: TC_NEG, (~a + 1) mod 2^w written as 2^w - a. -/
def Obligations.TcNegIsTwosComplementNegation : Prop :=
  EncodedBy 0x00000004 0xFFFFFF9F (fun v => .tcNeg (decodeWidth (v.extractLsb' 5 2))) ∧
  ∀ s : State,
    exec (.tcNeg .reserved) s = .next { s with st := raisedStatus 0x4 .invalidWidth 0x01 } ∧
    ∀ (wf : WidthCode) (w : Nat), (wf, w) ∈ [(WidthCode.w8, 8), (.w16, 16), (.w32, 32)] →
      exec (.tcNeg wf) s = .next { s with
        r0 := BitVec.ofNat 32 ((2 ^ w - s.a.toNat % 2 ^ w) % 2 ^ w)
        st := successStatus 0x4 s.st }

/-- 41_twos_complement R133: TC_NOT, ~a at width w written as 2^w - 1 - a. -/
def Obligations.TcNotIsComplement : Prop :=
  EncodedBy 0x00000005 0xFFFFFF9F (fun v => .tcNot (decodeWidth (v.extractLsb' 5 2))) ∧
  ∀ s : State,
    exec (.tcNot .reserved) s = .next { s with st := raisedStatus 0x5 .invalidWidth 0x01 } ∧
    ∀ (wf : WidthCode) (w : Nat), (wf, w) ∈ [(WidthCode.w8, 8), (.w16, 16), (.w32, 32)] →
      exec (.tcNot wf) s = .next { s with
        r0 := BitVec.ofNat 32 (2 ^ w - 1 - s.a.toNat % 2 ^ w)
        st := successStatus 0x5 s.st }

/-- 41_twos_complement R134: TC_SEXT. A negative operand gains 2^wt - 2^wf, a non-negative one gains zeros. -/
def Obligations.TcSextExtendsTheSign : Prop :=
  EncodedBy 0x00000006 0xFFFFFE1F
    (fun v => .tcSext (decodeWidth (v.extractLsb' 5 2)) (decodeWidth (v.extractLsb' 7 2))) ∧
  ∀ (wf wt : WidthCode) (s : State),
    (wf = .reserved ∨ wt = .reserved →
      exec (.tcSext wf wt) s = .next { s with
        st := raisedStatus 0x6 .invalidWidth
          (BitVec.ofNat 8 ((if wf = .reserved then 1 else 0) + (if wt = .reserved then 2 else 0))) }) ∧
    (∀ f t : Nat, (wf, f) ∈ [(WidthCode.w8, 8), (.w16, 16), (.w32, 32)] →
      (wt, t) ∈ [(WidthCode.w8, 8), (.w16, 16), (.w32, 32)] →
      (t < f → exec (.tcSext wf wt) s = .next { s with st := raisedStatus 0x6 .invalidWidth 0x04 }) ∧
      (f ≤ t → exec (.tcSext wf wt) s = .next { s with
        r0 := BitVec.ofNat 32 (if s.a.toNat % 2 ^ f < 2 ^ (f - 1) then s.a.toNat % 2 ^ f
          else (2 ^ t - 2 ^ f) + s.a.toNat % 2 ^ f)
        st := successStatus 0x6 s.st }))

/-- 41_twos_complement R135: TC_TRUNC. -/
def Obligations.TcTruncKeepsTheLowBits : Prop :=
  EncodedBy 0x00000007 0xFFFFFE1F
    (fun v => .tcTrunc (decodeWidth (v.extractLsb' 5 2)) (decodeWidth (v.extractLsb' 7 2))) ∧
  ∀ (wf wt : WidthCode) (s : State),
    (wf = .reserved ∨ wt = .reserved →
      exec (.tcTrunc wf wt) s = .next { s with
        st := raisedStatus 0x7 .invalidWidth
          (BitVec.ofNat 8 ((if wf = .reserved then 1 else 0) + (if wt = .reserved then 2 else 0))) }) ∧
    (∀ f t : Nat, (wf, f) ∈ [(WidthCode.w8, 8), (.w16, 16), (.w32, 32)] →
      (wt, t) ∈ [(WidthCode.w8, 8), (.w16, 16), (.w32, 32)] →
      (f < t → exec (.tcTrunc wf wt) s = .next { s with st := raisedStatus 0x7 .invalidWidth 0x04 }) ∧
      (t ≤ f → exec (.tcTrunc wf wt) s = .next { s with
        r0 := BitVec.ofNat 32 (s.a.toNat % 2 ^ t)
        st := successStatus 0x7 s.st }))

/-- 41_twos_complement R136: involution, zero sum, and the signed value of a negation, at every width. -/
def Obligations.NegationIsAnInvolutionWithZeroSum : Prop :=
  ∀ (wf : WidthCode) (w : Nat) (s : State), (wf, w) ∈ [(WidthCode.w8, 8), (.w16, 16), (.w32, 32)] →
    ∃ t u : State, exec (.tcNeg wf) s = .next t ∧ exec (.tcNeg wf) { t with a := t.r0 } = .next u ∧
      u.r0.toNat = s.a.toNat % 2 ^ w ∧
      (s.a.toNat + t.r0.toNat) % 2 ^ w = 0 ∧
      (s.a.toNat % 2 ^ w ≠ 2 ^ (w - 1) → (t.r0.setWidth w).toInt = - (s.a.setWidth w).toInt) ∧
      (s.a.toNat % 2 ^ w = 2 ^ (w - 1) → t.r0.toNat = 2 ^ (w - 1))

/-- 41_twos_complement R137: a + ~a is all ones and TC_NEG is TC_NOT plus one, at every width. -/
def Obligations.ComplementPlusOneIsNegation : Prop :=
  ∀ (wf : WidthCode) (w : Nat) (s : State), (wf, w) ∈ [(WidthCode.w8, 8), (.w16, 16), (.w32, 32)] →
    ∃ t u : State, exec (.tcNot wf) s = .next t ∧ exec (.tcNeg wf) s = .next u ∧
      (s.a.toNat % 2 ^ w + t.r0.toNat) % 2 ^ w = 2 ^ w - 1 ∧
      u.r0.toNat = (t.r0.toNat + 1) % 2 ^ w

/-- 41_twos_complement R138: the two commands agree at equal widths, each fails on the other's order of widths, and
truncation after extension restores the operand. -/
def Obligations.TruncationUndoesExtension : Prop :=
  ∀ (wf wt : WidthCode) (f t : Nat) (s : State),
    (wf, f) ∈ [(WidthCode.w8, 8), (.w16, 16), (.w32, 32)] →
    (wt, t) ∈ [(WidthCode.w8, 8), (.w16, 16), (.w32, 32)] →
    ∃ x y z : State, exec (.tcSext wf wt) s = .next x ∧ exec (.tcTrunc wf wt) s = .next y ∧
      exec (.tcTrunc wt wf) { x with a := x.r0 } = .next z ∧
      (f = t → x.r0 = y.r0) ∧
      (stErr x.st ≠ 0 ↔ t < f) ∧ (stErr y.st ≠ 0 ↔ f < t) ∧
      (f ≤ t → z.r0.toNat = s.a.toNat % 2 ^ f ∧ stErr z.st = 0)

/-- 41_twos_complement R139: the rendering of a w-bit value has exactly w characters, character i being bit w-1-i, and
read as a binary number it is the value. -/
def Obligations.RenderingShowsExactlyTheWidth : Prop :=
  ∀ (w : Nat) (v : BitVec w),
    (render v).length = w ∧
    (∀ i, i < w → (render v)[i]? = some (if v.getLsbD (w - 1 - i) then '1' else '0')) ∧
    (render v).foldl (fun acc ch => 2 * acc + (if ch = '1' then 1 else 0)) 0 = v.toNat

/-! The float32 field codec unit. -/

/-- 42_float32_codec R161: FC_DECOMP. -/
def Obligations.FcDecompSplitsThePattern : Prop :=
  EncodedBy 0x00000008 0xFFFFFFFF (fun _ => .fcDecomp) ∧
  ∀ s : State, exec .fcDecomp s = .next { s with
    r0 := BitVec.ofNat 32 (s.a.toNat / 2 ^ 31)
    r1 := BitVec.ofNat 32 (s.a.toNat / 2 ^ 23 % 2 ^ 8)
    r2 := BitVec.ofNat 32 (s.a.toNat % 2 ^ 23)
    r3 := BitVec.ofInt 32 ((s.a.toNat / 2 ^ 23 % 2 ^ 8 : Nat) - 127)
    st := successStatus 0x8 s.st }

/-- 42_float32_codec R162: FC_COMP. -/
def Obligations.FcCompPacksFieldsInRange : Prop :=
  EncodedBy 0x00000009 0xFFFFFFFF (fun _ => .fcComp) ∧
  ∀ s : State,
    (s.a.toNat ≤ 1 ∧ s.b.toNat ≤ 255 ∧ s.c.toNat ≤ 0x7FFFFF →
      exec .fcComp s = .next { s with
        r0 := BitVec.ofNat 32 (2 ^ 31 * s.a.toNat + 2 ^ 23 * s.b.toNat + s.c.toNat)
        st := successStatus 0x9 s.st }) ∧
    (¬ (s.a.toNat ≤ 1 ∧ s.b.toNat ≤ 255 ∧ s.c.toNat ≤ 0x7FFFFF) →
      exec .fcComp s = .next { s with
        st := raisedStatus 0x9 .fieldOutOfRange (BitVec.ofNat 8
          ((if s.a.toNat > 1 then 1 else 0) + (if s.b.toNat > 255 then 2 else 0) +
            (if s.c.toNat > 0x7FFFFF then 4 else 0))) })

/-- 42_float32_codec R163: FC_DECOMP and FC_COMP are exact inverses, both ways. -/
def Obligations.DecomposeAndComposeAreInverse : Prop :=
  (∀ s : State, ∃ t u : State, exec .fcDecomp s = .next t ∧
    exec .fcComp { t with a := t.r0, b := t.r1, c := t.r2 } = .next u ∧ u.r0 = s.a ∧ stErr u.st = 0) ∧
  (∀ s : State, s.a.toNat ≤ 1 → s.b.toNat ≤ 255 → s.c.toNat ≤ 0x7FFFFF → ∃ t u : State,
    exec .fcComp s = .next t ∧ exec .fcDecomp { t with a := t.r0 } = .next u ∧
    u.r0 = s.a ∧ u.r1 = s.b ∧ u.r2 = s.c)
end

