-- ==== Sys2Proof/Laws/Decode.lean ====
section
/-!
SUPPORT. The decoder opcode by opcode, and the encoder field by field.
-/

namespace Sys2Proof

/-- RC_DECODE is well-formed for 1 to 32 digits (R77). -/
theorem wellFormed_rcDecode (r : Radix) (n : Nat) : (Instr.rcDecode r n).WellFormed ↔ 1 ≤ n ∧ n ≤ 32 := by
  simp [Instr.WellFormed, Instr.wellFormed]

/-- The decoder under a row: the word names the row's command when the row selects it, and has a non-zero MBZ bit
otherwise (R74, R79). -/
theorem decode_of_row {v : Word} {row : Row} (h : rowOf (fieldOP v) = some row) :
    decode v = if v &&& row.mask = row.pattern then .ok (row.command v) else .error .mbzField := by
  rw [decode, h]

/-- The decoder on a reserved opcode (R78). -/
theorem decode_of_reserved {v : Word} (h : 10 ≤ (fieldOP v).toNat) :
    decode v = .error (.reservedOpcode (v.extractLsb' 4 28 != 0)) := by
  have hr : rowOf (fieldOP v) = none := by
    have hlt := (fieldOP v).isLt
    generalize fieldOP v = op at *
    obtain ⟨n, hn⟩ := op
    simp only [BitVec.toNat_ofFin] at h hlt
    interval_cases n <;> rfl
  rw [decode, hr]

/-- Every defined opcode has a row (R72, R73). -/
theorem rowOf_isSome {op : BitVec 4} (h : op.toNat < 10) : ∃ row, rowOf op = some row := by
  obtain ⟨n, hn⟩ := op
  simp only [BitVec.toNat_ofFin] at h
  interval_cases n <;> exact ⟨_, rfl⟩

@[simp] theorem decodeRadix_encodeRadix (r : Radix) : decodeRadix (encodeRadix r) = r := by
  cases r <;> rfl

@[simp] theorem decodeWidth_encodeWidth (c : WidthCode) : decodeWidth (encodeWidth c) = c := by
  cases c <;> rfl

@[simp] theorem encodeRadix_decodeRadix (b : BitVec 1) : encodeRadix (decodeRadix b) = b := by
  revert b; decide

@[simp] theorem encodeWidth_decodeWidth (c : BitVec 2) : encodeWidth (decodeWidth c) = c := by
  revert c; decide

theorem decodeCount_encodeCount {n : Nat} (h : 1 ≤ n) (h' : n ≤ 32) : decodeCount (encodeCount n) = n := by
  simp [decodeCount, encodeCount]; omega

@[simp] theorem encodeCount_decodeCount (l : BitVec 5) : encodeCount (decodeCount l) = l := by
  simp [decodeCount, encodeCount]

theorem decodeCount_bounds (l : BitVec 5) : 1 ≤ decodeCount l ∧ decodeCount l ≤ 32 := by
  have := l.isLt
  simp [decodeCount]; omega

section
variable (op : BitVec 4) (r : BitVec 1) (wf wt : BitVec 2) (l : BitVec 5)

/-- A command word bit by bit: the layout of R71. -/
theorem getLsbD_cmdWord (i : Nat) :
    (cmdWord op r wf wt l).getLsbD i =
      if i < 4 then op.getLsbD i else if i < 5 then r.getLsbD (i - 4) else if i < 7 then wf.getLsbD (i - 5)
      else if i < 9 then wt.getLsbD (i - 7) else l.getLsbD (i - 9) := by
  by_cases h : i < 32
  · interval_cases i <;> simp [cmdWord]
  · simp [show ¬ i < 4 by omega, show ¬ i < 5 by omega, show ¬ i < 7 by omega, show ¬ i < 9 by omega,
      BitVec.getLsbD_of_ge _ _ (show 32 ≤ i by omega), BitVec.getLsbD_of_ge l (i - 9) (by omega)]

@[simp] theorem fieldOP_cmdWord : fieldOP (cmdWord op r wf wt l) = op := by
  ext i hi
  simp only [fieldOP, BitVec.getElem_extractLsb', getLsbD_cmdWord]
  simp [hi, BitVec.getLsbD_eq_getElem]

@[simp] theorem fieldR_cmdWord : fieldR (cmdWord op r wf wt l) = r := by
  ext i hi
  simp only [fieldR, BitVec.getElem_extractLsb', getLsbD_cmdWord]
  simp [show 4 + i < 5 by omega, BitVec.getLsbD_eq_getElem hi]

@[simp] theorem fieldWF_cmdWord : fieldWF (cmdWord op r wf wt l) = wf := by
  ext i hi
  simp only [fieldWF, BitVec.getElem_extractLsb', getLsbD_cmdWord]
  simp [show ¬ 5 + i < 4 by omega, show 5 + i < 7 by omega, hi, BitVec.getLsbD_eq_getElem]

@[simp] theorem fieldWT_cmdWord : fieldWT (cmdWord op r wf wt l) = wt := by
  ext i hi
  simp only [fieldWT, BitVec.getElem_extractLsb', getLsbD_cmdWord]
  simp [show ¬ 7 + i < 4 by omega, show ¬ 7 + i < 5 by omega, show 7 + i < 9 by omega, hi,
    BitVec.getLsbD_eq_getElem]

@[simp] theorem fieldL_cmdWord : fieldL (cmdWord op r wf wt l) = l := by
  ext i hi
  simp only [fieldL, BitVec.getElem_extractLsb', getLsbD_cmdWord]
  simp [show ¬ 9 + i < 4 by omega, show ¬ 9 + i < 5 by omega, show ¬ 9 + i < 7 by omega, hi,
    BitVec.getLsbD_eq_getElem]

end

/-- Every word is its fields and its reserved bits: with bits 31:14 zero it is the `cmdWord` of its fields. -/
theorem cmdWord_of_fields (v : Word) (h : ∀ j, 14 ≤ j → j < 32 → v.getLsbD j = false) :
    cmdWord (fieldOP v) (fieldR v) (fieldWF v) (fieldWT v) (fieldL v) = v := by
  apply BitVec.eq_of_getLsbD_eq
  intro i hi
  rw [getLsbD_cmdWord]
  simp only [fieldOP, fieldR, fieldWF, fieldWT, fieldL, BitVec.getLsbD_extractLsb']
  by_cases h4 : i < 4
  · simp [h4]
  by_cases h5 : i < 5
  · simp [h4, h5, show 4 + (i - 4) = i by omega, show i - 4 < 1 by omega]
  by_cases h7 : i < 7
  · simp [h4, h5, h7, show 5 + (i - 5) = i by omega, show i - 5 < 2 by omega]
  by_cases h9 : i < 9
  · simp [h4, h5, h7, h9, show 7 + (i - 7) = i by omega, show i - 7 < 2 by omega]
  by_cases h14 : i < 14
  · simp [h4, h5, h7, h9, show 9 + (i - 9) = i by omega, show i - 9 < 5 by omega]
  · simp [h4, h5, h7, h9, show ¬ i - 9 < 5 by omega, h i (by omega) hi]

end Sys2Proof
end

