-- ==== Sys2Proof/Laws/State.lean ====
section
/-!
SUPPORT. Each named update of the state, field by field: what it writes and what it leaves. All true by rfl.
-/

namespace Sys2Proof.Machine

/-! State.raise -/

@[simp] theorem State.raise_a (s : State) (op : BitVec 4) (e : ErrorKind) (info : BitVec 8) : (s.raise op e info).a = s.a := rfl
@[simp] theorem State.raise_b (s : State) (op : BitVec 4) (e : ErrorKind) (info : BitVec 8) : (s.raise op e info).b = s.b := rfl
@[simp] theorem State.raise_c (s : State) (op : BitVec 4) (e : ErrorKind) (info : BitVec 8) : (s.raise op e info).c = s.c := rfl
@[simp] theorem State.raise_cmd (s : State) (op : BitVec 4) (e : ErrorKind) (info : BitVec 8) : (s.raise op e info).cmd = s.cmd := rfl
@[simp] theorem State.raise_st (s : State) (op : BitVec 4) (e : ErrorKind) (info : BitVec 8) : (s.raise op e info).st = raisedStatus op e info := rfl
@[simp] theorem State.raise_r0 (s : State) (op : BitVec 4) (e : ErrorKind) (info : BitVec 8) : (s.raise op e info).r0 = s.r0 := rfl
@[simp] theorem State.raise_r1 (s : State) (op : BitVec 4) (e : ErrorKind) (info : BitVec 8) : (s.raise op e info).r1 = s.r1 := rfl
@[simp] theorem State.raise_r2 (s : State) (op : BitVec 4) (e : ErrorKind) (info : BitVec 8) : (s.raise op e info).r2 = s.r2 := rfl
@[simp] theorem State.raise_r3 (s : State) (op : BitVec 4) (e : ErrorKind) (info : BitVec 8) : (s.raise op e info).r3 = s.r3 := rfl
@[simp] theorem State.raise_dig0 (s : State) (op : BitVec 4) (e : ErrorKind) (info : BitVec 8) : (s.raise op e info).dig0 = s.dig0 := rfl
@[simp] theorem State.raise_dig1 (s : State) (op : BitVec 4) (e : ErrorKind) (info : BitVec 8) : (s.raise op e info).dig1 = s.dig1 := rfl
@[simp] theorem State.raise_dig2 (s : State) (op : BitVec 4) (e : ErrorKind) (info : BitVec 8) : (s.raise op e info).dig2 = s.dig2 := rfl
@[simp] theorem State.raise_dig3 (s : State) (op : BitVec 4) (e : ErrorKind) (info : BitVec 8) : (s.raise op e info).dig3 = s.dig3 := rfl
@[simp] theorem State.raise_position (s : State) (op : BitVec 4) (e : ErrorKind) (info : BitVec 8) : (s.raise op e info).position = s.position := rfl
@[simp] theorem State.raise_pending (s : State) (op : BitVec 4) (e : ErrorKind) (info : BitVec 8) : (s.raise op e info).pending = s.pending := rfl
@[simp] theorem State.raise_returned (s : State) (op : BitVec 4) (e : ErrorKind) (info : BitVec 8) : (s.raise op e info).returned = s.returned := rfl

/-! State.succeed -/

@[simp] theorem State.succeed_a (s : State) (op : BitVec 4) : (s.succeed op).a = s.a := rfl
@[simp] theorem State.succeed_b (s : State) (op : BitVec 4) : (s.succeed op).b = s.b := rfl
@[simp] theorem State.succeed_c (s : State) (op : BitVec 4) : (s.succeed op).c = s.c := rfl
@[simp] theorem State.succeed_cmd (s : State) (op : BitVec 4) : (s.succeed op).cmd = s.cmd := rfl
@[simp] theorem State.succeed_st (s : State) (op : BitVec 4) : (s.succeed op).st = successStatus op s.st := rfl
@[simp] theorem State.succeed_r0 (s : State) (op : BitVec 4) : (s.succeed op).r0 = s.r0 := rfl
@[simp] theorem State.succeed_r1 (s : State) (op : BitVec 4) : (s.succeed op).r1 = s.r1 := rfl
@[simp] theorem State.succeed_r2 (s : State) (op : BitVec 4) : (s.succeed op).r2 = s.r2 := rfl
@[simp] theorem State.succeed_r3 (s : State) (op : BitVec 4) : (s.succeed op).r3 = s.r3 := rfl
@[simp] theorem State.succeed_dig0 (s : State) (op : BitVec 4) : (s.succeed op).dig0 = s.dig0 := rfl
@[simp] theorem State.succeed_dig1 (s : State) (op : BitVec 4) : (s.succeed op).dig1 = s.dig1 := rfl
@[simp] theorem State.succeed_dig2 (s : State) (op : BitVec 4) : (s.succeed op).dig2 = s.dig2 := rfl
@[simp] theorem State.succeed_dig3 (s : State) (op : BitVec 4) : (s.succeed op).dig3 = s.dig3 := rfl
@[simp] theorem State.succeed_position (s : State) (op : BitVec 4) : (s.succeed op).position = s.position := rfl
@[simp] theorem State.succeed_pending (s : State) (op : BitVec 4) : (s.succeed op).pending = s.pending := rfl
@[simp] theorem State.succeed_returned (s : State) (op : BitVec 4) : (s.succeed op).returned = s.returned := rfl

/-! State.setR0 -/

@[simp] theorem State.setR0_a (s : State) (v : Word) : (s.setR0 v).a = s.a := rfl
@[simp] theorem State.setR0_b (s : State) (v : Word) : (s.setR0 v).b = s.b := rfl
@[simp] theorem State.setR0_c (s : State) (v : Word) : (s.setR0 v).c = s.c := rfl
@[simp] theorem State.setR0_cmd (s : State) (v : Word) : (s.setR0 v).cmd = s.cmd := rfl
@[simp] theorem State.setR0_st (s : State) (v : Word) : (s.setR0 v).st = s.st := rfl
@[simp] theorem State.setR0_r0 (s : State) (v : Word) : (s.setR0 v).r0 = v := rfl
@[simp] theorem State.setR0_r1 (s : State) (v : Word) : (s.setR0 v).r1 = s.r1 := rfl
@[simp] theorem State.setR0_r2 (s : State) (v : Word) : (s.setR0 v).r2 = s.r2 := rfl
@[simp] theorem State.setR0_r3 (s : State) (v : Word) : (s.setR0 v).r3 = s.r3 := rfl
@[simp] theorem State.setR0_dig0 (s : State) (v : Word) : (s.setR0 v).dig0 = s.dig0 := rfl
@[simp] theorem State.setR0_dig1 (s : State) (v : Word) : (s.setR0 v).dig1 = s.dig1 := rfl
@[simp] theorem State.setR0_dig2 (s : State) (v : Word) : (s.setR0 v).dig2 = s.dig2 := rfl
@[simp] theorem State.setR0_dig3 (s : State) (v : Word) : (s.setR0 v).dig3 = s.dig3 := rfl
@[simp] theorem State.setR0_position (s : State) (v : Word) : (s.setR0 v).position = s.position := rfl
@[simp] theorem State.setR0_pending (s : State) (v : Word) : (s.setR0 v).pending = s.pending := rfl
@[simp] theorem State.setR0_returned (s : State) (v : Word) : (s.setR0 v).returned = s.returned := rfl

/-! State.setResults -/

@[simp] theorem State.setResults_a (s : State) (v0 v1 v2 v3 : Word) : (s.setResults v0 v1 v2 v3).a = s.a := rfl
@[simp] theorem State.setResults_b (s : State) (v0 v1 v2 v3 : Word) : (s.setResults v0 v1 v2 v3).b = s.b := rfl
@[simp] theorem State.setResults_c (s : State) (v0 v1 v2 v3 : Word) : (s.setResults v0 v1 v2 v3).c = s.c := rfl
@[simp] theorem State.setResults_cmd (s : State) (v0 v1 v2 v3 : Word) : (s.setResults v0 v1 v2 v3).cmd = s.cmd := rfl
@[simp] theorem State.setResults_st (s : State) (v0 v1 v2 v3 : Word) : (s.setResults v0 v1 v2 v3).st = s.st := rfl
@[simp] theorem State.setResults_r0 (s : State) (v0 v1 v2 v3 : Word) : (s.setResults v0 v1 v2 v3).r0 = v0 := rfl
@[simp] theorem State.setResults_r1 (s : State) (v0 v1 v2 v3 : Word) : (s.setResults v0 v1 v2 v3).r1 = v1 := rfl
@[simp] theorem State.setResults_r2 (s : State) (v0 v1 v2 v3 : Word) : (s.setResults v0 v1 v2 v3).r2 = v2 := rfl
@[simp] theorem State.setResults_r3 (s : State) (v0 v1 v2 v3 : Word) : (s.setResults v0 v1 v2 v3).r3 = v3 := rfl
@[simp] theorem State.setResults_dig0 (s : State) (v0 v1 v2 v3 : Word) : (s.setResults v0 v1 v2 v3).dig0 = s.dig0 := rfl
@[simp] theorem State.setResults_dig1 (s : State) (v0 v1 v2 v3 : Word) : (s.setResults v0 v1 v2 v3).dig1 = s.dig1 := rfl
@[simp] theorem State.setResults_dig2 (s : State) (v0 v1 v2 v3 : Word) : (s.setResults v0 v1 v2 v3).dig2 = s.dig2 := rfl
@[simp] theorem State.setResults_dig3 (s : State) (v0 v1 v2 v3 : Word) : (s.setResults v0 v1 v2 v3).dig3 = s.dig3 := rfl
@[simp] theorem State.setResults_position (s : State) (v0 v1 v2 v3 : Word) : (s.setResults v0 v1 v2 v3).position = s.position := rfl
@[simp] theorem State.setResults_pending (s : State) (v0 v1 v2 v3 : Word) : (s.setResults v0 v1 v2 v3).pending = s.pending := rfl
@[simp] theorem State.setResults_returned (s : State) (v0 v1 v2 v3 : Word) : (s.setResults v0 v1 v2 v3).returned = s.returned := rfl

/-! State.setDigits -/

@[simp] theorem State.setDigits_a (s : State) (d0 d1 d2 d3 : Word) : (s.setDigits d0 d1 d2 d3).a = s.a := rfl
@[simp] theorem State.setDigits_b (s : State) (d0 d1 d2 d3 : Word) : (s.setDigits d0 d1 d2 d3).b = s.b := rfl
@[simp] theorem State.setDigits_c (s : State) (d0 d1 d2 d3 : Word) : (s.setDigits d0 d1 d2 d3).c = s.c := rfl
@[simp] theorem State.setDigits_cmd (s : State) (d0 d1 d2 d3 : Word) : (s.setDigits d0 d1 d2 d3).cmd = s.cmd := rfl
@[simp] theorem State.setDigits_st (s : State) (d0 d1 d2 d3 : Word) : (s.setDigits d0 d1 d2 d3).st = s.st := rfl
@[simp] theorem State.setDigits_r0 (s : State) (d0 d1 d2 d3 : Word) : (s.setDigits d0 d1 d2 d3).r0 = s.r0 := rfl
@[simp] theorem State.setDigits_r1 (s : State) (d0 d1 d2 d3 : Word) : (s.setDigits d0 d1 d2 d3).r1 = s.r1 := rfl
@[simp] theorem State.setDigits_r2 (s : State) (d0 d1 d2 d3 : Word) : (s.setDigits d0 d1 d2 d3).r2 = s.r2 := rfl
@[simp] theorem State.setDigits_r3 (s : State) (d0 d1 d2 d3 : Word) : (s.setDigits d0 d1 d2 d3).r3 = s.r3 := rfl
@[simp] theorem State.setDigits_dig0 (s : State) (d0 d1 d2 d3 : Word) : (s.setDigits d0 d1 d2 d3).dig0 = d0 := rfl
@[simp] theorem State.setDigits_dig1 (s : State) (d0 d1 d2 d3 : Word) : (s.setDigits d0 d1 d2 d3).dig1 = d1 := rfl
@[simp] theorem State.setDigits_dig2 (s : State) (d0 d1 d2 d3 : Word) : (s.setDigits d0 d1 d2 d3).dig2 = d2 := rfl
@[simp] theorem State.setDigits_dig3 (s : State) (d0 d1 d2 d3 : Word) : (s.setDigits d0 d1 d2 d3).dig3 = d3 := rfl
@[simp] theorem State.setDigits_position (s : State) (d0 d1 d2 d3 : Word) : (s.setDigits d0 d1 d2 d3).position = s.position := rfl
@[simp] theorem State.setDigits_pending (s : State) (d0 d1 d2 d3 : Word) : (s.setDigits d0 d1 d2 d3).pending = s.pending := rfl
@[simp] theorem State.setDigits_returned (s : State) (d0 d1 d2 d3 : Word) : (s.setDigits d0 d1 d2 d3).returned = s.returned := rfl

/-! State.resetBlock -/

@[simp] theorem State.resetBlock_a (s : State) : (s.resetBlock).a = 0 := rfl
@[simp] theorem State.resetBlock_b (s : State) : (s.resetBlock).b = 0 := rfl
@[simp] theorem State.resetBlock_c (s : State) : (s.resetBlock).c = 0 := rfl
@[simp] theorem State.resetBlock_cmd (s : State) : (s.resetBlock).cmd = 0 := rfl
@[simp] theorem State.resetBlock_st (s : State) : (s.resetBlock).st = 0 := rfl
@[simp] theorem State.resetBlock_r0 (s : State) : (s.resetBlock).r0 = 0 := rfl
@[simp] theorem State.resetBlock_r1 (s : State) : (s.resetBlock).r1 = 0 := rfl
@[simp] theorem State.resetBlock_r2 (s : State) : (s.resetBlock).r2 = 0 := rfl
@[simp] theorem State.resetBlock_r3 (s : State) : (s.resetBlock).r3 = 0 := rfl
@[simp] theorem State.resetBlock_dig0 (s : State) : (s.resetBlock).dig0 = 0 := rfl
@[simp] theorem State.resetBlock_dig1 (s : State) : (s.resetBlock).dig1 = 0 := rfl
@[simp] theorem State.resetBlock_dig2 (s : State) : (s.resetBlock).dig2 = 0 := rfl
@[simp] theorem State.resetBlock_dig3 (s : State) : (s.resetBlock).dig3 = 0 := rfl
@[simp] theorem State.resetBlock_position (s : State) : (s.resetBlock).position = s.position := rfl
@[simp] theorem State.resetBlock_pending (s : State) : (s.resetBlock).pending = s.pending := rfl
@[simp] theorem State.resetBlock_returned (s : State) : (s.resetBlock).returned = s.returned := rfl

/-! State.takeAction -/

@[simp] theorem State.takeAction_a (s : State) (rest : List HostAction) : (s.takeAction rest).a = s.a := rfl
@[simp] theorem State.takeAction_b (s : State) (rest : List HostAction) : (s.takeAction rest).b = s.b := rfl
@[simp] theorem State.takeAction_c (s : State) (rest : List HostAction) : (s.takeAction rest).c = s.c := rfl
@[simp] theorem State.takeAction_cmd (s : State) (rest : List HostAction) : (s.takeAction rest).cmd = s.cmd := rfl
@[simp] theorem State.takeAction_st (s : State) (rest : List HostAction) : (s.takeAction rest).st = s.st := rfl
@[simp] theorem State.takeAction_r0 (s : State) (rest : List HostAction) : (s.takeAction rest).r0 = s.r0 := rfl
@[simp] theorem State.takeAction_r1 (s : State) (rest : List HostAction) : (s.takeAction rest).r1 = s.r1 := rfl
@[simp] theorem State.takeAction_r2 (s : State) (rest : List HostAction) : (s.takeAction rest).r2 = s.r2 := rfl
@[simp] theorem State.takeAction_r3 (s : State) (rest : List HostAction) : (s.takeAction rest).r3 = s.r3 := rfl
@[simp] theorem State.takeAction_dig0 (s : State) (rest : List HostAction) : (s.takeAction rest).dig0 = s.dig0 := rfl
@[simp] theorem State.takeAction_dig1 (s : State) (rest : List HostAction) : (s.takeAction rest).dig1 = s.dig1 := rfl
@[simp] theorem State.takeAction_dig2 (s : State) (rest : List HostAction) : (s.takeAction rest).dig2 = s.dig2 := rfl
@[simp] theorem State.takeAction_dig3 (s : State) (rest : List HostAction) : (s.takeAction rest).dig3 = s.dig3 := rfl
@[simp] theorem State.takeAction_position (s : State) (rest : List HostAction) : (s.takeAction rest).position = s.position := rfl
@[simp] theorem State.takeAction_pending (s : State) (rest : List HostAction) : (s.takeAction rest).pending = rest := rfl
@[simp] theorem State.takeAction_returned (s : State) (rest : List HostAction) : (s.takeAction rest).returned = s.returned := rfl

/-! State.countAccess -/

@[simp] theorem State.countAccess_a (s : State) : (s.countAccess).a = s.a := rfl
@[simp] theorem State.countAccess_b (s : State) : (s.countAccess).b = s.b := rfl
@[simp] theorem State.countAccess_c (s : State) : (s.countAccess).c = s.c := rfl
@[simp] theorem State.countAccess_cmd (s : State) : (s.countAccess).cmd = s.cmd := rfl
@[simp] theorem State.countAccess_st (s : State) : (s.countAccess).st = s.st := rfl
@[simp] theorem State.countAccess_r0 (s : State) : (s.countAccess).r0 = s.r0 := rfl
@[simp] theorem State.countAccess_r1 (s : State) : (s.countAccess).r1 = s.r1 := rfl
@[simp] theorem State.countAccess_r2 (s : State) : (s.countAccess).r2 = s.r2 := rfl
@[simp] theorem State.countAccess_r3 (s : State) : (s.countAccess).r3 = s.r3 := rfl
@[simp] theorem State.countAccess_dig0 (s : State) : (s.countAccess).dig0 = s.dig0 := rfl
@[simp] theorem State.countAccess_dig1 (s : State) : (s.countAccess).dig1 = s.dig1 := rfl
@[simp] theorem State.countAccess_dig2 (s : State) : (s.countAccess).dig2 = s.dig2 := rfl
@[simp] theorem State.countAccess_dig3 (s : State) : (s.countAccess).dig3 = s.dig3 := rfl
@[simp] theorem State.countAccess_position (s : State) : (s.countAccess).position = s.position + 1 := rfl
@[simp] theorem State.countAccess_pending (s : State) : (s.countAccess).pending = s.pending := rfl
@[simp] theorem State.countAccess_returned (s : State) : (s.countAccess).returned = s.returned := rfl

/-! State.giveBack -/

@[simp] theorem State.giveBack_a (s : State) (v : Word) : (s.giveBack v).a = s.a := rfl
@[simp] theorem State.giveBack_b (s : State) (v : Word) : (s.giveBack v).b = s.b := rfl
@[simp] theorem State.giveBack_c (s : State) (v : Word) : (s.giveBack v).c = s.c := rfl
@[simp] theorem State.giveBack_cmd (s : State) (v : Word) : (s.giveBack v).cmd = s.cmd := rfl
@[simp] theorem State.giveBack_st (s : State) (v : Word) : (s.giveBack v).st = s.st := rfl
@[simp] theorem State.giveBack_r0 (s : State) (v : Word) : (s.giveBack v).r0 = s.r0 := rfl
@[simp] theorem State.giveBack_r1 (s : State) (v : Word) : (s.giveBack v).r1 = s.r1 := rfl
@[simp] theorem State.giveBack_r2 (s : State) (v : Word) : (s.giveBack v).r2 = s.r2 := rfl
@[simp] theorem State.giveBack_r3 (s : State) (v : Word) : (s.giveBack v).r3 = s.r3 := rfl
@[simp] theorem State.giveBack_dig0 (s : State) (v : Word) : (s.giveBack v).dig0 = s.dig0 := rfl
@[simp] theorem State.giveBack_dig1 (s : State) (v : Word) : (s.giveBack v).dig1 = s.dig1 := rfl
@[simp] theorem State.giveBack_dig2 (s : State) (v : Word) : (s.giveBack v).dig2 = s.dig2 := rfl
@[simp] theorem State.giveBack_dig3 (s : State) (v : Word) : (s.giveBack v).dig3 = s.dig3 := rfl
@[simp] theorem State.giveBack_position (s : State) (v : Word) : (s.giveBack v).position = s.position := rfl
@[simp] theorem State.giveBack_pending (s : State) (v : Word) : (s.giveBack v).pending = s.pending := rfl
@[simp] theorem State.giveBack_returned (s : State) (v : Word) : (s.giveBack v).returned = s.returned ++ [v] := rfl

/-! State.withCommand -/

@[simp] theorem State.withCommand_a (s : State) (v : Word) : (s.withCommand v).a = s.a := rfl
@[simp] theorem State.withCommand_b (s : State) (v : Word) : (s.withCommand v).b = s.b := rfl
@[simp] theorem State.withCommand_c (s : State) (v : Word) : (s.withCommand v).c = s.c := rfl
@[simp] theorem State.withCommand_cmd (s : State) (v : Word) : (s.withCommand v).cmd = s.cmd := rfl
@[simp] theorem State.withCommand_st (s : State) (v : Word) : (s.withCommand v).st = s.st := rfl
@[simp] theorem State.withCommand_r0 (s : State) (v : Word) : (s.withCommand v).r0 = s.r0 := rfl
@[simp] theorem State.withCommand_r1 (s : State) (v : Word) : (s.withCommand v).r1 = s.r1 := rfl
@[simp] theorem State.withCommand_r2 (s : State) (v : Word) : (s.withCommand v).r2 = s.r2 := rfl
@[simp] theorem State.withCommand_r3 (s : State) (v : Word) : (s.withCommand v).r3 = s.r3 := rfl
@[simp] theorem State.withCommand_dig0 (s : State) (v : Word) : (s.withCommand v).dig0 = s.dig0 := rfl
@[simp] theorem State.withCommand_dig1 (s : State) (v : Word) : (s.withCommand v).dig1 = s.dig1 := rfl
@[simp] theorem State.withCommand_dig2 (s : State) (v : Word) : (s.withCommand v).dig2 = s.dig2 := rfl
@[simp] theorem State.withCommand_dig3 (s : State) (v : Word) : (s.withCommand v).dig3 = s.dig3 := rfl
@[simp] theorem State.withCommand_position (s : State) (v : Word) : (s.withCommand v).position = s.position := rfl
@[simp] theorem State.withCommand_pending (s : State) (v : Word) : (s.withCommand v).pending = .write 3 v :: s.pending := rfl
@[simp] theorem State.withCommand_returned (s : State) (v : Word) : (s.withCommand v).returned = s.returned := rfl

end Sys2Proof.Machine
end

