-- ==== Sys2Proof/Laws/Flags.lean ====
section
/-!
SUPPORT. What the fields of ST read in a status word, and in the two statuses a command can leave.
-/

namespace Sys2Proof.Machine

section
variable (err : BitVec 3) (sticky : Bool) (op : BitVec 4) (info : BitVec 8)

/-- A status word bit by bit: the layout of R27. -/
theorem getLsbD_statusWord (i : Nat) :
    (statusWord err sticky op info).getLsbD i =
      if i < 3 then err.getLsbD i else if i < 4 then sticky else if i < 8 then op.getLsbD (i - 4)
      else info.getLsbD (i - 8) := by
  by_cases h : i < 32
  · interval_cases i <;> simp [statusWord]
  · simp [show ¬ i < 3 by omega, show ¬ i < 4 by omega, show ¬ i < 8 by omega,
      BitVec.getLsbD_of_ge _ _ (show 32 ≤ i by omega), BitVec.getLsbD_of_ge info (i - 8) (by omega)]

@[simp] theorem stErr_statusWord : stErr (statusWord err sticky op info) = err := by
  ext i hi
  simp only [stErr, BitVec.getElem_extractLsb', getLsbD_statusWord]
  simp [hi, BitVec.getLsbD_eq_getElem]

@[simp] theorem stSticky_statusWord : stSticky (statusWord err sticky op info) = sticky := by
  rw [stSticky, getLsbD_statusWord]
  simp

@[simp] theorem stLastop_statusWord : stLastop (statusWord err sticky op info) = op := by
  ext i hi
  simp only [stLastop, BitVec.getElem_extractLsb', getLsbD_statusWord]
  simp [show ¬ 4 + i < 3 by omega, show 4 + i < 8 by omega, hi, BitVec.getLsbD_eq_getElem]

@[simp] theorem stEinfo_statusWord : stEinfo (statusWord err sticky op info) = info := by
  ext i hi
  simp only [stEinfo, BitVec.getElem_extractLsb', getLsbD_statusWord]
  simp [show ¬ 8 + i < 3 by omega, show ¬ 8 + i < 4 by omega, hi, BitVec.getLsbD_eq_getElem]

@[simp] theorem stReserved_statusWord : stReserved (statusWord err sticky op info) = 0 := by
  ext i hi
  simp only [stReserved, BitVec.getElem_extractLsb', getLsbD_statusWord]
  simp [show ¬ 16 + i < 3 by omega, show ¬ 16 + i < 4 by omega, show ¬ 16 + i < 8 by omega,
    BitVec.getLsbD_of_ge info (16 + i - 8) (by omega)]

end

section
variable (op : BitVec 4) (e : ErrorKind) (info : BitVec 8) (old : Word)

@[simp] theorem stErr_raisedStatus : stErr (raisedStatus op e info) = errorCode e := by
  simp [raisedStatus]
@[simp] theorem stSticky_raisedStatus : stSticky (raisedStatus op e info) = true := by
  simp [raisedStatus]
@[simp] theorem stLastop_raisedStatus : stLastop (raisedStatus op e info) = op := by
  simp [raisedStatus]
@[simp] theorem stEinfo_raisedStatus : stEinfo (raisedStatus op e info) = info := by
  simp [raisedStatus]
@[simp] theorem stReserved_raisedStatus : stReserved (raisedStatus op e info) = 0 := by
  simp [raisedStatus]

@[simp] theorem stErr_successStatus : stErr (successStatus op old) = 0 := by
  simp [successStatus]
@[simp] theorem stSticky_successStatus : stSticky (successStatus op old) = stSticky old := by
  simp [successStatus]
@[simp] theorem stLastop_successStatus : stLastop (successStatus op old) = op := by
  simp [successStatus]
@[simp] theorem stEinfo_successStatus : stEinfo (successStatus op old) = 0 := by
  simp [successStatus]
@[simp] theorem stReserved_successStatus : stReserved (successStatus op old) = 0 := by
  simp [successStatus]

@[simp] theorem errorCode_ne_zero : errorCode e ≠ 0#3 := by
  cases e <;> decide

@[simp] theorem stErr_zero : stErr 0#32 = 0 := by decide
@[simp] theorem stSticky_zero : stSticky 0#32 = false := by decide
@[simp] theorem stLastop_zero : stLastop 0#32 = 0 := by decide
@[simp] theorem stEinfo_zero : stEinfo 0#32 = 0 := by decide
@[simp] theorem stReserved_zero : stReserved 0#32 = 0 := by decide

/-- A second success leaves ST as the first did. -/
@[simp] theorem successStatus_successStatus :
    successStatus op (successStatus op old) = successStatus op old := by
  simp [successStatus]

end

end Sys2Proof.Machine
end

