-- ==== Sys2Proof/Laws/Ops.lean ====
section
/-!
SUPPORT. One lemma per shared operation saying all it can do: how a command ends, what a slot read and a slot
write give, which slot a host address names.
-/

namespace Sys2Proof.Machine

/-- A command ends in a next state on either path: with ST alone written, or with its results and ST. -/
theorem finish_cases (op : BitVec 4) (s : State) (result : Except (ErrorKind × BitVec 8) State) :
    (∃ e info, result = .error (e, info) ∧ finish op s result = .next (s.raise op e info)) ∨
    (∃ t, result = .ok t ∧ finish op s result = .next (t.succeed op)) := by
  rcases result with ⟨e, info⟩ | t
  · exact .inl ⟨e, info, rfl, rfl⟩
  · exact .inr ⟨t, rfl, rfl⟩

@[simp] theorem finish_error (op : BitVec 4) (s : State) (e : ErrorKind) (info : BitVec 8) :
    finish op s (.error (e, info)) = .next (s.raise op e info) := rfl

@[simp] theorem finish_ok (op : BitVec 4) (s t : State) : finish op s (.ok t) = .next (t.succeed op) := rfl

/-! The ends of a command as one update each, whatever the value committed: citing these keeps a proof from comparing
values by computation. -/

theorem finish_raise (op : BitVec 4) (s : State) (e : ErrorKind) (info : BitVec 8) :
    finish op s (.error (e, info)) = .next { s with st := raisedStatus op e info } := rfl

theorem finish_setR0 (op : BitVec 4) (s : State) (v : Word) :
    finish op s (.ok (s.setR0 v)) = .next { s with r0 := v, st := successStatus op s.st } := rfl

theorem finish_setResults (op : BitVec 4) (s : State) (v0 v1 v2 v3 : Word) :
    finish op s (.ok (s.setResults v0 v1 v2 v3)) =
      .next { s with r0 := v0, r1 := v1, r2 := v2, r3 := v3, st := successStatus op s.st } := rfl

theorem finish_setDigits_setR0 (op : BitVec 4) (s : State) (d0 d1 d2 d3 v : Word) :
    finish op s (.ok ((s.setDigits d0 d1 d2 d3).setR0 v)) =
      .next { s with
        dig0 := d0, dig1 := d1, dig2 := d2, dig3 := d3, r0 := v, st := successStatus op s.st } := rfl

/-- A slot's value, as the table of R20 lists the slots. -/
theorem slot_eq_getD (s : State) (k : Slot) :
    s.slot k = [s.a, s.b, s.c, s.cmd, s.st, s.r0, s.r1, s.r2, s.r3, s.dig0, s.dig1, s.dig2, s.dig3, 0, 0, 0].getD
      k.toNat 0 := by
  obtain ⟨k, hk⟩ := k
  interval_cases k <;> rfl

/-- After a host write's store, a writable slot holds the value and every other slot what it held (R52). -/
theorem slot_storeSlot (s : State) (k j : Slot) (v : Word) :
    (s.storeSlot k v).slot j =
      if j = k ∧ k ∈ ([0, 1, 2, 3, 9, 10, 11, 12] : List Slot) then v else s.slot j := by
  obtain ⟨k, hk⟩ := k
  obtain ⟨j, hj⟩ := j
  interval_cases k <;> interval_cases j <;> rfl

/-- A host write's store leaves the host's side alone. -/
theorem storeSlot_host (s : State) (k : Slot) (v : Word) :
    (s.storeSlot k v).pending = s.pending ∧ (s.storeSlot k v).position = s.position ∧
      (s.storeSlot k v).returned = s.returned := by
  obtain ⟨k, hk⟩ := k
  interval_cases k <;> exact ⟨rfl, rfl, rfl⟩

/-- A host write's store leaves ST alone. -/
theorem storeSlot_st (s : State) (k : Slot) (v : Word) : (s.storeSlot k v).st = s.st := by
  obtain ⟨k, hk⟩ := k
  interval_cases k <;> rfl

/-- A host write's store leaves CMD alone unless it is CMD's. -/
theorem storeSlot_cmd (s : State) (k : Slot) (v : Word) (h : k ≠ 3) : (s.storeSlot k v).cmd = s.cmd := by
  obtain ⟨k, hk⟩ := k
  interval_cases k <;> first | rfl | exact absurd rfl h

@[simp] theorem storeSlot_three (s : State) (v : Word) : s.storeSlot 3#4 v = { s with cmd := v } := rfl

/-- The slot a host address names is `k` exactly when the access is four bytes at BASE + 4k (R53). -/
theorem busSlot_eq_some (addr n : Nat) (k : Slot) :
    busSlot addr n = some k ↔ n = 4 ∧ addr = Config.base + 4 * k.toNat := by
  have hk := k.isLt
  unfold busSlot
  split
  · rename_i h
    rw [Option.some.injEq, ← BitVec.toNat_inj, BitVec.toNat_ofNat]
    omega
  · rename_i h
    constructor
    · intro h'; exact absurd h' (by simp)
    · rintro ⟨rfl, rfl⟩
      exact absurd ⟨rfl, by omega, by omega, by omega⟩ h

end Sys2Proof.Machine
end

