-- ==== Sys2Proof/Laws/Operands.lean ====
section
/-!
SUPPORT. The digit buffer, Horner's accumulation, repeated division and the width codes, each said once.
-/

namespace Sys2Proof.Machine

theorem two_le_radixValue (r : Radix) : 2 ≤ radixValue r := by cases r <;> decide
theorem radixValue_le_ten (r : Radix) : radixValue r ≤ 10 := by cases r <;> decide

/-- The width codes that name a width are the three of R13. -/
theorem widthOf_eq_some (c : WidthCode) (w : Nat) :
    widthOf c = some w ↔ (c, w) ∈ [(WidthCode.w8, 8), (.w16, 16), (.w32, 32)] := by
  cases c <;> simp [widthOf, eq_comm]

theorem widthOf_eq_none (c : WidthCode) : widthOf c = none ↔ c = .reserved := by
  cases c <;> simp [widthOf]

/-- A two-width command gets both widths, or the detail of its reserved codes (R134, R135). -/
theorem widthPair_eq (wf wt : WidthCode) :
    (∃ f t, widthOf wf = some f ∧ widthOf wt = some t ∧ widthPair wf wt = .ok (f, t)) ∨
    ((wf = .reserved ∨ wt = .reserved) ∧ widthPair wf wt = .error (.invalidWidth, widthCodeMask wf wt)) := by
  cases wf <;> cases wt <;> simp [widthOf, widthPair]

/-- The mask is zero exactly when every field is in range (R162). -/
theorem fieldRangeMask_eq_zero (a b c : Word) :
    fieldRangeMask a b c = 0#8 ↔ a.toNat ≤ 1 ∧ b.toNat ≤ 255 ∧ c.toNat ≤ 0x7FFFFF := by
  have key : ∀ (p q r : Prop) [Decidable p] [Decidable q] [Decidable r],
      ((if p then 0x01#8 else 0#8) ||| (if q then 0x02#8 else 0#8) ||| (if r then 0x04#8 else 0#8)) = 0#8 ↔
        ¬ p ∧ ¬ q ∧ ¬ r := by
    intro p q r _ _ _
    by_cases hp : p <;> by_cases hq : q <;> by_cases hr : r <;> simp [hp, hq, hr]
  rw [← Nat.not_lt, ← Nat.not_lt, ← Nat.not_lt]
  exact key _ _ _

/-! The digit buffer. -/

/-- Digit word `j` is slot 9 + j (R31). -/
theorem digitWord_eq_slot (s : State) {j : Nat} (h : j < 4) : s.digitWord j = s.slot (BitVec.ofNat 4 (9 + j)) := by
  interval_cases j <;> rfl

/-- States with the same digit words have the same digits. -/
theorem digit_congr {s t : State} (h0 : s.dig0 = t.dig0) (h1 : s.dig1 = t.dig1) (h2 : s.dig2 = t.dig2)
    (h3 : s.dig3 = t.dig3) (i : Nat) : s.digit i = t.digit i := by
  simp only [State.digit, State.digitWord, h0, h1, h2, h3]

/-- States with the same first `n` digits have the same digit sequence. -/
theorem digitSeq_congr {s t : State} {n : Nat} (h : ∀ i, i < n → s.digit i = t.digit i) :
    s.digitSeq n = t.digitSeq n := by
  unfold State.digitSeq
  apply List.map_congr_left
  intro i hi
  rw [h i (by simpa using hi)]

/-- A digit cell is one of sixteen values. -/
theorem digit_lt (s : State) (i : Nat) : (s.digit i).toNat < 16 := (s.digit i).isLt

theorem digitSeq_length (s : State) (n : Nat) : (s.digitSeq n).length = n := by simp [State.digitSeq]

theorem digitSeq_getElem (s : State) {n i : Nat} (h : i < (s.digitSeq n).length) :
    (s.digitSeq n)[i] = (s.digit i).toNat := by simp [State.digitSeq]

theorem digitSeq_succ (s : State) (n : Nat) : s.digitSeq (n + 1) = s.digitSeq n ++ [(s.digit n).toNat] := by
  simp [State.digitSeq, List.range_succ]

/-- Cell `i` of a packed digit word holds digit 8·j + i of the sequence (R31). -/
theorem extractLsb'_packDigits (ds : List Nat) (j : Nat) {i : Nat} (h : i < 8) :
    (packDigits ds j).extractLsb' (4 * i) 4 = BitVec.ofNat 4 (ds.getD (8 * j + i) 0) := by
  have key : ∀ c : Nat → BitVec 4,
      ((c 0).setWidth 32 <<< 0 ||| (c 1).setWidth 32 <<< 4 ||| (c 2).setWidth 32 <<< 8 ||| (c 3).setWidth 32 <<< 12
        ||| (c 4).setWidth 32 <<< 16 ||| (c 5).setWidth 32 <<< 20 ||| (c 6).setWidth 32 <<< 24
        ||| (c 7).setWidth 32 <<< 28 : BitVec 32).extractLsb' (4 * i) 4 = c i := by
    intro c
    ext k hk
    interval_cases i <;> interval_cases k <;> simp
  exact key fun i => BitVec.ofNat 4 (ds.getD (8 * j + i) 0)

/-- After a digit sequence is packed into the buffer, each cell holds its digit, zero past the sequence's end. -/
theorem digit_setDigits_pack (s : State) (ds : List Nat) {i : Nat} (h : i < 32) :
    (s.setDigits (packDigits ds 0) (packDigits ds 1) (packDigits ds 2) (packDigits ds 3)).digit i =
      BitVec.ofNat 4 (ds.getD i 0) := by
  unfold State.digit
  have h8 : i / 8 < 4 := by omega
  have hm : i % 8 < 8 := by omega
  have hi : 8 * (i / 8) + i % 8 = i := by omega
  rw [← congrArg (fun m => BitVec.ofNat 4 (ds.getD m 0)) hi]
  generalize i / 8 = q at *
  interval_cases q <;> exact extractLsb'_packDigits ds _ hm

/-! Validity. -/

theorem firstInvalid_eq_none {r : Nat} {ds : List Nat} : firstInvalid r ds = none ↔ ∀ d ∈ ds, d < r := by
  simp [firstInvalid]

/-- The index reported is that of an invalid digit, and every digit before it is valid (R104). -/
theorem firstInvalid_eq_some {r i : Nat} {ds : List Nat} :
    firstInvalid r ds = some i ↔ ∃ h : i < ds.length, r ≤ ds[i] ∧ ∀ j, (hj : j < i) → ds[j] < r := by
  simp [firstInvalid, List.findIdx?_eq_some_iff_getElem]

/-! Horner. -/

/-- Reduction at every step is reduction once at the end: Horner's value is the number whose digits, least significant
first, are the reversed sequence (R106, R108). -/
theorem horner_eq_ofDigits (r : Nat) (ds : List Nat) :
    horner r ds = BitVec.ofNat 32 (Nat.ofDigits r ds.reverse) := by
  induction ds using List.reverseRecOn with
  | nil => rfl
  | append_singleton ds d ih =>
    have hstep : horner r (ds ++ [d]) = hornerStep r (horner r ds) d := by simp [horner, List.foldl_append]
    rw [hstep, ih, hornerStep]
    apply BitVec.eq_of_toNat_eq
    simp only [BitVec.toNat_ofNat, List.reverse_append, List.reverse_cons, List.reverse_nil, List.nil_append,
      List.singleton_append, Nat.ofDigits_cons]
    conv_lhs => rw [Nat.add_mod, Nat.mul_mod, Nat.mod_mod, ← Nat.mul_mod, ← Nat.add_mod]
    congr 1
    ring

/-! Repeated division. -/

/-- With rounds to spare, repeated division gives the digits of a non-zero number: the bound on the rounds never
cuts the loop of R105 short. -/
theorem divDigits_eq_digits {r : Nat} (hr : 2 ≤ r) (fuel : Nat) {t : Nat} (h0 : t ≠ 0) (h : t < r ^ fuel) :
    divDigits r fuel t = Nat.digits r t := by
  induction fuel generalizing t with
  | zero => simp at h; exact absurd h h0
  | succ fuel ih =>
    rw [divDigits, Nat.digits_def' (by omega) (by omega)]
    congr 1
    split
    · rename_i hq; rw [hq, Nat.digits_zero]
    · rename_i hq
      exact ih hq (Nat.div_lt_of_lt_mul (by rw [Nat.pow_succ] at h; linarith [Nat.mul_comm (r ^ fuel) r]))

theorem divDigits_zero (r fuel : Nat) : divDigits r (fuel + 1) 0 = [0] := by simp [divDigits]

/-- The digits RC_ENCODE writes: one zero for 0, else the digits of the number, most significant first (R105). -/
theorem encodeDigits_eq {r : Nat} (hr : 2 ≤ r) (v : Word) :
    encodeDigits r v = if v.toNat = 0 then [0] else (Nat.digits r v.toNat).reverse := by
  unfold encodeDigits
  split
  · rename_i h; rw [h, divDigits_zero]; rfl
  · rename_i h
    rw [divDigits_eq_digits hr 32 h (lt_of_lt_of_le v.isLt (Nat.pow_le_pow_left hr 32))]

end Sys2Proof.Machine
end

