-- ==== Sys2Proof/Laws/PerInstr.lean ====
section
/-!
SUPPORT. One family of statements about every command as syntax: its encoding carries its opcode in the OP field, and
the row of R73 with that opcode selects it.
-/

namespace Sys2Proof.Laws.EncodedWord

/-- The encoding of a well-formed command has the command's opcode, and the row of that opcode selects it. -/
def Statement (i : Instr) : Prop :=
  i.WellFormed → fieldOP (encode i) = i.opcode ∧
    ∃ row, rowOf i.opcode = some row ∧ encode i &&& row.mask = row.pattern

theorem clrst : Statement .clrst := fun _ => ⟨rfl, _, rfl, rfl⟩

theorem rcMac (r : Radix) : Statement (.rcMac r) :=
  fun _ => ⟨by cases r <;> rfl, _, rfl, by cases r <;> rfl⟩

theorem rcDecode (r : Radix) (n : Nat) : Statement (.rcDecode r n) := by
  intro h
  refine ⟨by simp [encode, Instr.opcode], _, rfl, ?_⟩
  obtain ⟨h1, h2⟩ := (wellFormed_rcDecode r n).mp h
  interval_cases n <;> cases r <;> rfl

theorem rcEncode (r : Radix) : Statement (.rcEncode r) :=
  fun _ => ⟨by cases r <;> rfl, _, rfl, by cases r <;> rfl⟩

theorem tcNeg (wf : WidthCode) : Statement (.tcNeg wf) :=
  fun _ => ⟨by cases wf <;> rfl, _, rfl, by cases wf <;> rfl⟩

theorem tcNot (wf : WidthCode) : Statement (.tcNot wf) :=
  fun _ => ⟨by cases wf <;> rfl, _, rfl, by cases wf <;> rfl⟩

theorem tcSext (wf wt : WidthCode) : Statement (.tcSext wf wt) :=
  fun _ => ⟨by cases wf <;> cases wt <;> rfl, _, rfl, by cases wf <;> cases wt <;> rfl⟩

theorem tcTrunc (wf wt : WidthCode) : Statement (.tcTrunc wf wt) :=
  fun _ => ⟨by cases wf <;> cases wt <;> rfl, _, rfl, by cases wf <;> cases wt <;> rfl⟩

theorem fcDecomp : Statement .fcDecomp := fun _ => ⟨rfl, _, rfl, rfl⟩

theorem fcComp : Statement .fcComp := fun _ => ⟨rfl, _, rfl, rfl⟩

end Sys2Proof.Laws.EncodedWord
end

