-- ==== Sys2Proof/Laws/Step.lean ====
section
/-!
SUPPORT. What a command, a word written to CMD, a host action and a step can do: one lemma each, cited in place of
unfolding them.
-/

namespace Sys2Proof.Machine

/-! The arms of `exec`, by definition. -/

@[simp] theorem exec_clrst (s : State) : exec .clrst s = execClrst s := rfl
@[simp] theorem exec_rcMac (r : Radix) (s : State) : exec (.rcMac r) s = execRcMac r s := rfl
@[simp] theorem exec_rcDecode (r : Radix) (n : Nat) (s : State) : exec (.rcDecode r n) s = execRcDecode r n s := rfl
@[simp] theorem exec_rcEncode (r : Radix) (s : State) : exec (.rcEncode r) s = execRcEncode r s := rfl
@[simp] theorem exec_tcNeg (wf : WidthCode) (s : State) : exec (.tcNeg wf) s = execTcNeg wf s := rfl
@[simp] theorem exec_tcNot (wf : WidthCode) (s : State) : exec (.tcNot wf) s = execTcNot wf s := rfl
@[simp] theorem exec_tcSext (wf wt : WidthCode) (s : State) : exec (.tcSext wf wt) s = execTcSext wf wt s := rfl
@[simp] theorem exec_tcTrunc (wf wt : WidthCode) (s : State) : exec (.tcTrunc wf wt) s = execTcTrunc wf wt s := rfl
@[simp] theorem exec_fcDecomp (s : State) : exec .fcDecomp s = execFcDecomp s := rfl
@[simp] theorem exec_fcComp (s : State) : exec .fcComp s = execFcComp s := rfl

/-- How a command other than CLRST ends: by `finish` under its opcode. The results it would commit leave ST alone. -/
theorem exec_finish (i : Instr) (s : State) (hi : i ≠ .clrst) :
    ∃ result, exec i s = finish i.opcode s result ∧ ∀ t, result = .ok t → t.st = s.st := by
  cases i with
  | clrst => exact absurd rfl hi
  | rcMac r =>
    refine ⟨_, rfl, ?_⟩
    intro t ht; split at ht <;> cases ht; rfl
  | rcDecode r n =>
    refine ⟨_, rfl, ?_⟩
    intro t ht; split at ht <;> cases ht; rfl
  | rcEncode r =>
    let ds := encodeDigits (radixValue r) s.a
    refine ⟨.ok ((s.setDigits (packDigits ds 0) (packDigits ds 1) (packDigits ds 2) (packDigits ds 3)).setR0
      (BitVec.ofNat 32 ds.length)), rfl, ?_⟩
    intro t ht; cases ht; rfl
  | tcNeg wf =>
    refine ⟨_, rfl, ?_⟩
    intro t ht; split at ht <;> cases ht; rfl
  | tcNot wf =>
    refine ⟨_, rfl, ?_⟩
    intro t ht; split at ht <;> cases ht; rfl
  | tcSext wf wt =>
    refine ⟨_, rfl, ?_⟩
    intro t ht; split at ht
    · cases ht
    · split at ht <;> cases ht; rfl
  | tcTrunc wf wt =>
    refine ⟨_, rfl, ?_⟩
    intro t ht; split at ht
    · cases ht
    · split at ht <;> cases ht; rfl
  | fcDecomp =>
    refine ⟨.ok (s.setResults (zext32 (floatSign s.a)) (zext32 (floatExponent s.a)) (zext32 (floatMantissa s.a))
      (zext32 (floatExponent s.a) - 127)), rfl, ?_⟩
    intro t ht; cases ht; rfl
  | fcComp =>
    refine ⟨_, rfl, ?_⟩
    intro t ht; split at ht <;> cases ht; rfl

/-- What a command can do: clear ST (CLRST), raise an error, or commit results that leave ST to the success update. -/
theorem exec_cases (i : Instr) (s : State) :
    (i = .clrst ∧ exec i s = .next { s with st := 0 }) ∨
    (∃ e info, exec i s = .next (s.raise i.opcode e info)) ∨
    (i ≠ .clrst ∧ ∃ t : State, t.st = s.st ∧ exec i s = .next (t.succeed i.opcode)) := by
  by_cases hi : i = .clrst
  · subst hi; exact .inl ⟨rfl, rfl⟩
  · obtain ⟨result, hr, hst⟩ := exec_finish i s hi
    rcases finish_cases i.opcode s result with ⟨e, info, -, hf⟩ | ⟨t, ht, hf⟩
    · exact .inr (.inl ⟨e, info, hr.trans hf⟩)
    · exact .inr (.inr ⟨hi, t, hst t ht, hr.trans hf⟩)

/-- What a command word does: its command, or IllegalCommand with the word's opcode (R74). -/
theorem execute_cases (v : Word) (s : State) :
    (∃ i, decode v = .ok i ∧ execute v s = exec i s) ∨
    (∃ cause, decode v = .error cause ∧
      execute v s = .next (s.raise (fieldOP v) .illegalCommand (illegalInfo cause))) := by
  unfold execute
  rcases decode v with cause | i
  · exact .inr ⟨cause, rfl, rfl⟩
  · exact .inl ⟨i, rfl, rfl⟩

theorem hostWrite_cmd (v : Word) (s : State) : hostWrite 3 v s = execute v { s with cmd := v } := rfl

theorem hostWrite_of_ne {k : Slot} (h : k ≠ 3) (v : Word) (s : State) :
    hostWrite k v s = .next (s.storeSlot k v) := if_neg h

theorem hostAction_busRead_some {addr n : Nat} {k : Slot} (h : busSlot addr n = some k) (s : State) :
    hostAction (.busRead addr n) s = hostAction (.read k) s := by simp [hostAction, h]

theorem hostAction_busWrite_some {addr n : Nat} {k : Slot} (h : busSlot addr n = some k) (v : Word) (s : State) :
    hostAction (.busWrite addr n v) s = hostAction (.write k v) s := by simp [hostAction, h]

theorem hostAction_busRead_none {addr n : Nat} (h : busSlot addr n = none) (s : State) :
    hostAction (.busRead addr n) s = .refused (.notATransaction addr n) := by simp [hostAction, h]

theorem hostAction_busWrite_none {addr n : Nat} (h : busSlot addr n = none) (v : Word) (s : State) :
    hostAction (.busWrite addr n v) s = .refused (.notATransaction addr n) := by simp [hostAction, h]

/-- With nothing pending a step changes nothing (R65). -/
theorem step_of_nil {s : State} (h : s.pending = []) : step s = .next s := by
  simp [step, hostStep, h]

/-- A step is the host's next action. -/
theorem step_of_cons {s : State} {x : HostAction} {rest : List HostAction} (h : s.pending = x :: rest) :
    step s = hostAction x (s.takeAction rest) := by
  simp [step, hostStep, h]

end Sys2Proof.Machine
end

