-- ==== Sys2Proof/Laws/Safety.lean ====
section
/-!
SUPPORT. A row of the decoder's table is a row of R73 whole: its words decode, the other words with its opcode raise
IllegalCommand.
-/

namespace Sys2Proof.Machine

/-- `EncodedBy` from the decoder's own row of the pattern's opcode, whose mask covers OP. -/
theorem encodedBy_of_row {p m : Word} {f : Word → Instr} {row : Row} (hrow : rowOf (fieldOP p) = some row)
    (hp : row.pattern = p) (hm : row.mask = m) (hf : ∀ v, row.command v = f v) (hop : m &&& 15 = 15) :
    EncodedBy p m f := by
  have same : ∀ v : Word, v &&& m = p → fieldOP v = fieldOP p := by
    intro v h
    rw [← h]
    ext i hi
    have bit : m.getLsbD i = true := by
      have := congrArg (fun x : Word => x.getLsbD i) hop
      interval_cases i <;> simpa using this
    simp [fieldOP, bit]
  constructor
  · intro v h
    rw [decode_of_row (row := row) (by rw [same v h]; exact hrow), hm, hp, if_pos h, hf]
  · intro v s h1 h2
    rw [hostWrite_cmd, execute, decode_of_row (row := row) (by rw [h1]; exact hrow), hm, hp, if_neg h2]
    simp only [h1]
    rfl

end Sys2Proof.Machine
end

