-- ==== Sys2Proof/Tests/Slice0.lean ====
section
/-!
SUPPORT. The model's own tests. Expected values are those of 95_test_vectors, the tables and corner cases of the rules
named; the witnesses show that each statement's hypotheses can be met.
-/

namespace Sys2Proof.Machine

/-- The outcome is a next state with this property. -/
def answers (o : Host.Outcome State Fault Refusal) (p : State → Bool) : Bool :=
  match o with
  | .next t => p t
  | .fault _ => false
  | .refused _ => false

/-- One step on a CMD write of `w` with these operands and digit words, everything else at reset. -/
def runs (w : Nat) (a b c : Word) (d : List Word) (p : State → Bool) : Bool :=
  answers (step ({ State.reset with
    a := a, b := b, c := c
    dig0 := d.getD 0 0, dig1 := d.getD 1 0, dig2 := d.getD 2 0, dig3 := d.getD 3 0 }.withFetchWord 32 w)) p

/-! Ill-formed terms are refused (R77). -/

theorem test_wellFormed_refuses_no_digit : (Instr.rcDecode .ten 0).wellFormed = false := by decide
theorem test_wellFormed_refuses_33_digits : (Instr.rcDecode .two 33).wellFormed = false := by decide
theorem test_wellFormed_bounds :
    (Instr.rcDecode .two 1).wellFormed = true ∧ (Instr.rcDecode .two 32).wellFormed = true := by decide

/-! Each command from a word written out bit by bit from its pattern in R73. -/

theorem test_decode_clrst : decode 0b00000000000000000000000000000000 = .ok .clrst := by decide
theorem test_decode_rcMac : decode 0b00000000000000000000000000010001 = .ok (.rcMac .ten) := by decide
theorem test_decode_rcDecode : decode 0b00000000000000000011111000000010 = .ok (.rcDecode .two 32) := by decide
theorem test_decode_rcDecode_L : decode 0b00000000000000000000001000010010 = .ok (.rcDecode .ten 2) := by decide
theorem test_decode_rcEncode : decode 0b00000000000000000000000000000011 = .ok (.rcEncode .two) := by decide
theorem test_decode_tcNeg : decode 0b00000000000000000000000001000100 = .ok (.tcNeg .w32) := by decide
theorem test_decode_tcNot : decode 0b00000000000000000000000001100101 = .ok (.tcNot .reserved) := by decide
theorem test_decode_tcSext : decode 0b00000000000000000000000100100110 = .ok (.tcSext .w16 .w32) := by decide
theorem test_decode_tcTrunc : decode 0b00000000000000000000000001000111 = .ok (.tcTrunc .w32 .w8) := by decide
theorem test_decode_fcDecomp : decode 0b00000000000000000000000000001000 = .ok .fcDecomp := by decide
theorem test_decode_fcComp : decode 0b00000000000000000000000000001001 = .ok .fcComp := by decide
theorem test_decode_reserved : decode 0x0000000A = .error (.reservedOpcode false) := by decide
theorem test_decode_mbz : decode 0x00000201 = .error .mbzField := by decide
theorem test_encode_words : encode (.tcSext .w8 .w16) = 0x00000086 ∧ encode (.rcDecode .ten 3) = 0x00000412 := by decide
theorem test_decodeTableWord : decodeTableWord 32 0x00000126 = some (.tcSext .w16 .w32) := by decide

/-! One step per case, from 95_test_vectors section 2. -/

/-- 2.11 row 1. -/
theorem test_clrst : answers (exec .clrst { State.reset with st := 0x19, r0 := 7 })
    (fun t => t.st == 0 && t.r0 == 7) = true := by decide
/-- 2.1 row 6: the largest radix-10 step that wraps to 0. -/
theorem test_rcMac_wraps : runs 0x11 0x19999999 6 0 [] (fun t => t.r0 == 0 && t.st == 0x10) = true := by decide
/-- 2.1 row 11: B is checked whole. -/
theorem test_rcMac_bad : runs 0x11 5 0xFFFFFFFF 0 [] (fun t => t.r0 == 0 && t.st == 0x19) = true := by decide
/-- 2.2 row 7: eleven nines wrap. -/
theorem test_rcDecode_wraps : runs 0x1412 0 0 0 [0x99999999, 0x999]
    (fun t => t.r0 == 0x4876E7FF && t.st == 0x20) = true := by decide
/-- 2.2 row 11: bad digit at index 2. -/
theorem test_rcDecode_bad : runs 0x412 0 0 0 [0xA21] (fun t => t.r0 == 0 && t.st == 0x229) = true := by decide
/-- 2.3 row 5: 31 digits, stale cells cleared. -/
theorem test_rcEncode_two : runs 0x3 0x7FFFFFFF 0 0 [0xFFFFFFFF, 0, 0, 0xFFFFFFFF]
    (fun t => t.r0 == 0x1F && t.dig0 == 0x11111111 && t.dig3 == 0x01111111 && t.st == 0x30) = true := by decide
/-- 2.3 row 9. -/
theorem test_rcEncode_ten : runs 0x13 0xFFFFFFFF 0 0 []
    (fun t => t.r0 == 0xA && t.dig0 == 0x27694924 && t.dig1 == 0x59) = true := by decide
/-- 2.4 row 7: bits above the width are ignored. -/
theorem test_tcNeg : runs 0x4 0x1234567B 0 0 [] (fun t => t.r0 == 0x85 && t.st == 0x40) = true := by decide
/-- 2.4 row 16. -/
theorem test_tcNeg_bad : runs 0x64 0x7B 0 0 [] (fun t => t.r0 == 0 && t.st == 0x14A) = true := by decide
/-- 2.5 row 8. -/
theorem test_tcNot : runs 0x25 1 0 0 [] (fun t => t.r0 == 0xFFFE && t.st == 0x50) = true := by decide
/-- 2.6 row 7. -/
theorem test_tcSext : runs 0x86 0x1FB 0 0 [] (fun t => t.r0 == 0xFFFB && t.st == 0x60) = true := by decide
/-- 2.6 row 8: narrowing asked of extend. -/
theorem test_tcSext_order : runs 0x46 0xFFFFFFFB 0 0 [] (fun t => t.r0 == 0 && t.st == 0x46A) = true := by decide
/-- 2.7 row 11. -/
theorem test_tcTrunc : runs 0x27 0x180 0 0 [] (fun t => t.r0 == 0x80 && t.st == 0x70) = true := by decide
/-- 2.7 row 15: both codes reserved. -/
theorem test_tcTrunc_codes : runs 0x1E7 0xFB 0 0 [] (fun t => t.r0 == 0 && t.st == 0x37A) = true := by decide
/-- 2.8 row 13: R3 is negative. -/
theorem test_fcDecomp : runs 0x8 0x3EAAAAAB 0 0 []
    (fun t => t.r0 == 0 && t.r1 == 0x7D && t.r2 == 0x2AAAAB && t.r3 == 0xFFFFFFFE) = true := by decide
/-- 2.9 row 4. -/
theorem test_fcComp : runs 0x9 1 0xFF 0x7FFFFF [] (fun t => t.r0 == 0xFFFFFFFF && t.st == 0x90) = true := by decide
/-- 2.9 row 12: every field out of range. -/
theorem test_fcComp_bad : runs 0x9 2 0x100 0x800000 [] (fun t => t.r0 == 0 && t.st == 0x79B) = true := by decide
/-- 2.10 rows 9 and 10. -/
theorem test_illegal : runs 0x1F 0 0 0 [] (fun t => t.st == 0x3FC && t.cmd == 0x1F) = true ∧
    runs 0x4000 0 0 0 [] (fun t => t.st == 0x20C) = true := by decide
/-- 2.11 row 8 and row 5: a digit word stores any value, slot 13 nothing. -/
theorem test_hostWrite : answers (step { State.reset with pending := [.write 11 0xCAFEF00D] })
      (fun t => t.slot 11 == 0xCAFEF00D && t.position == 2) = true ∧
    answers (step { State.reset with pending := [.write 13 0xDEADBEEF] }) (fun t => t.slot 13 == 0) = true := by decide
/-- 4.1 of the source, R139: render_8(0x85) and render_16(0xFFFB). -/
theorem test_render : render (0x85 : BitVec 8) = "10000101".toList ∧
    render (0xFFFB : BitVec 16) = "1111111111111011".toList := by decide
/-- R81's examples. -/
theorem test_asm : (AsmCommand.rcDecode (some 10) (some 3)).word = some 0x412 ∧
    (AsmCommand.tcSext (some 8) (some 16)).word = some 0x86 ∧ (AsmCommand.rcMac (some 3)).word = none := by decide

/-! Witnesses: states and operands that meet the hypotheses of the statements, at the ends of their ranges. -/

/-- RcDecode's count, both ends. -/
theorem wit_wellFormed : (Instr.rcDecode .ten 1).WellFormed ∧ (Instr.rcDecode .ten 32).WellFormed := by decide

theorem wit_decodedWord : decode 0x00003E12 = .ok (.rcDecode .ten 32) := by decide

/-- ReservedOpcodeRaisesIllegalCommand: the first and last reserved opcode. -/
theorem wit_reservedOpcode : 10 ≤ (fieldOP 0x0000000A).toNat ∧ 10 ≤ (fieldOP 0xFFFFFFFF).toNat := by decide

/-- NonzeroMbzFieldRaisesIllegalCommand: CLRST with R set, RC_DECODE with bit 31 set. -/
theorem wit_mbzField :
    ((fieldOP 0x00000010).toNat < 10 ∧ mbzBit (fieldOP 0x00000010) 4 = true ∧ (0x00000010 : Word).getLsbD 4 = true) ∧
    ((fieldOP 0x80000002).toNat < 10 ∧ mbzBit (fieldOP 0x80000002) 31 = true ∧
      (0x80000002 : Word).getLsbD 31 = true) := by decide

/-- WordNamesCommandWhenUnusedBitsAreZero, both sides. -/
theorem wit_unusedBits : (∃ i, decode 0x000001E7 = .ok i) ∧ ¬ ∃ i, decode 0x00000201 = .ok i :=
  ⟨⟨_, rfl⟩, by rintro ⟨i, h⟩; cases h⟩

theorem wit_pseudo : (∀ n, Pseudo.rcDec2 32 = .rcDec2 n ∨ Pseudo.rcDec2 32 = .rcDec10 n → 1 ≤ n ∧ n ≤ 32) ∧
    (∀ n, Pseudo.rcDec10 1 = .rcDec2 n ∨ Pseudo.rcDec10 1 = .rcDec10 n → 1 ≤ n ∧ n ≤ 32) := by
  constructor <;> intro n h <;> simp at h <;> omega

/-- A state whose next action is `x`. -/
def next1 (x : HostAction) : State := { State.reset with pending := [x] }

theorem wit_stepRuns : (next1 (.write 3 0x412)).pending = .write 3 0x412 :: [] ∧
    decode 0x412 = .ok (.rcDecode .ten 3) ∧ (Instr.rcDecode .ten 3).WellFormed := by decide

theorem wit_hostRead : (next1 (.read 0)).pending = .read 0 :: [] ∧ (next1 (.read 15)).pending = .read 15 :: [] := by
  decide

/-- HostWriteActsBySlot: a stored slot, CMD, a read-only and a reserved slot. -/
theorem wit_hostWrite : (next1 (.write 12 1)).pending = .write 12 1 :: [] ∧ (12 : Slot) ≠ 3 ∧
    (next1 (.write 3 1)).pending = .write 3 1 :: [] ∧ (next1 (.write 4 1)).pending = .write 4 1 :: [] ∧
    (next1 (.write 13 1)).pending = .write 13 1 :: [] := by decide

/-- BusAccessIsSlotAccessOrRefused: the last slot's address; one past it; a narrow access; a misaligned one. -/
theorem wit_bus : (∃ k : Slot, Config.base + 60 = Config.base + 4 * k.toNat) ∧
    (¬ (4 = 4 ∧ ∃ k : Slot, Config.base + 64 = Config.base + 4 * k.toNat)) ∧
    (¬ (2 = 4 ∧ ∃ k : Slot, Config.base = Config.base + 4 * k.toNat)) ∧
    (¬ (4 = 4 ∧ ∃ k : Slot, Config.base + 1 = Config.base + 4 * k.toNat)) := by
  refine ⟨⟨15, rfl⟩, ?_, by simp, ?_⟩
  · rintro ⟨-, k, h⟩; have := k.isLt; omega
  · rintro ⟨-, k, h⟩; omega

/-- A byte-addressed access that is no transaction stops, one that is answers. -/
theorem wit_refused : step (next1 (.busRead 0 2)) = .refused (.notATransaction 0 2) ∧
    ∃ t, step (next1 (.busRead (Config.base + 4) 4)) = .next t := by
  constructor
  · rw [step_of_cons rfl]; exact hostAction_busRead_none (by simp [busSlot]) _
  · have h : busSlot (Config.base + 4) 4 = some 1 := (busSlot_eq_some _ _ 1).2 ⟨rfl, rfl⟩
    rw [step_of_cons rfl, hostAction_busRead_some h]
    exact ⟨_, rfl⟩

theorem wit_reset : (next1 .reset).pending = .reset :: [] ∧
    (next1 (.resetDuringCmd 8)).pending = .resetDuringCmd 8 :: [] := by decide

/-- StepTakesTheNextActionInOrder: an access, reset, and nothing pending. -/
theorem wit_step : (∃ t, step (next1 (.read 4)) = .next t) ∧ (∃ t, step (next1 .reset) = .next t) ∧
    (∃ t, step State.reset = .next t) := ⟨⟨_, rfl⟩, ⟨_, rfl⟩, ⟨_, rfl⟩⟩

theorem wit_raise : (ErrorKind.illegalCommand, 4) ∈
    [(ErrorKind.invalidDigit, 1), (.invalidWidth, 2), (.fieldOutOfRange, 3), (.illegalCommand, 4)] := by decide

/-- EveryCommandWriteSetsLastop and RepeatedCommandWriteIsIdempotent: a success, a failure and an illegal word. -/
theorem wit_hostWriteCmd : (∃ t, hostWrite 3 0x8 State.reset = .next t) ∧
    (∃ t, hostWrite 3 0x64 State.reset = .next t) ∧ (∃ t, hostWrite 3 0xA State.reset = .next t) :=
  ⟨⟨_, rfl⟩, ⟨_, rfl⟩, ⟨_, rfl⟩⟩

/-- StickyIsClearedOnlyByClrstAndReset: CLRST, a failing command and reset after an error. -/
theorem wit_sticky : (∃ t, step { next1 (.write 3 0) with st := 0x19 } = .next t) ∧
    (∃ t, step { next1 (.write 3 0x64) with st := 0x10 } = .next t) ∧
    (∃ t, step { next1 .reset with st := 0x19 } = .next t) ∧
    (HostAction.write 3 0).commandWord? = some 0 ∧ HostAction.reset.isReset = true :=
  ⟨⟨_, rfl⟩, ⟨_, rfl⟩, ⟨_, rfl⟩, rfl, rfl⟩

/-- EveryStepKeepsTheStatusInvariant: a state with an error recorded. -/
theorem wit_statusInv : StatusInv { next1 (.write 3 0x8) with st := 0x29B, cmd := 0x9 } ∧
    ∃ t, step { next1 (.write 3 0x8) with st := 0x29B, cmd := 0x9 } = .next t := ⟨by decide, _, rfl⟩

/-- FailedCommandChangesOnlyStatus: a command that fails. -/
theorem wit_failed : ∃ t, exec (.tcNeg .reserved) State.reset = .next t ∧ stErr t.st ≠ 0 := ⟨_, rfl, by decide⟩

/-- CommandDependsOnlyOnItsReads: two states that differ outside what TC_NEG w=8 reads. -/
theorem wit_sameReads : SameReads (.tcNeg .w8) { State.reset with a := 0x7B } { State.reset with a := 0x17B, r1 := 3 } ∧
    (∃ t, exec (.tcNeg .w8) { State.reset with a := 0x7B } = .next t) ∧
    ∃ t, exec (.tcNeg .w8) { State.reset with a := 0x17B, r1 := 3 } = .next t := by
  refine ⟨?_, ⟨_, rfl⟩, ⟨_, rfl⟩⟩
  intro w hw
  cases hw
  rfl

/-- RcMacIsOneHornerStep, both clauses where they meet, in each radix. -/
theorem wit_rcMac : ({ State.reset with b := 9 } : State).b.toNat < radixValue .ten ∧
    radixValue .ten ≤ ({ State.reset with b := 10 } : State).b.toNat ∧
    ({ State.reset with b := 1 } : State).b.toNat < radixValue .two ∧
    radixValue .two ≤ ({ State.reset with b := 2 } : State).b.toNat := by decide

/-- Thirty-two ones in the digit buffer. -/
def ones : State :=
  { State.reset with dig0 := 0x11111111, dig1 := 0x11111111, dig2 := 0x11111111, dig3 := 0x11111111 }

/-- RcDecode with all 32 digits valid, and with the only bad digit in the last cell. -/
theorem wit_rcDecode : (∀ i, i < 32 → (ones.digit i).toNat < radixValue .two) ∧
    radixValue .two ≤ (({ ones with dig3 := 0x21111111 } : State).digit 31).toNat ∧
    ∀ j, j < 31 → (({ ones with dig3 := 0x21111111 } : State).digit j).toNat < radixValue .two := by decide

theorem wit_rcEncode : ∃ t, exec (.rcEncode .ten) { State.reset with a := 0xFFFFFFFF } = .next t := ⟨_, rfl⟩

/-- DecodeThenEncodeGivesDigitsBackWithoutLeadingZero: two digits with and without a leading zero. -/
theorem wit_decodeEncode : ∃ t u,
    exec (.rcDecode .ten 2) { State.reset with dig0 := 0x21 } = .next t ∧
    exec (.rcEncode .ten) { t with a := t.r0 } = .next u ∧
    (∀ i, i < 2 → (({ State.reset with dig0 := 0x21 } : State).digit i).toNat < radixValue .ten) ∧
    (∀ i, i < 2 → (({ State.reset with dig0 := 0x20 } : State).digit i).toNat < radixValue .ten) ∧
    (∑ i ∈ Finset.range 2, radixValue .ten ^ (2 - 1 - i) *
      (({ State.reset with dig0 := 0x21 } : State).digit i).toNat) < 2 ^ 32 :=
  ⟨_, _, rfl, rfl, by decide, by decide, by decide⟩

/-- HornerResultsAreExactBelowTheWrap: the largest exact radix-10 step (95_test_vectors 2.1 row 5). -/
theorem wit_exact : (5 : Word).toNat < radixValue .ten ∧
    (0x19999999 : Word).toNat * radixValue .ten + (5 : Word).toNat < 2 ^ 32 := by decide

/-- Every width code that names a width, and both orders of widths. -/
theorem wit_widths : (WidthCode.w32, 32) ∈ [(WidthCode.w8, 8), (.w16, 16), (.w32, 32)] ∧
    (WidthCode.w8, 8) ∈ [(WidthCode.w8, 8), (.w16, 16), (.w32, 32)] ∧ 8 ≤ 8 ∧ 8 < 32 := by decide

/-- FcCompPacksFieldsInRange: every field at its largest value, and each one past it. -/
theorem wit_fcComp : ((1 : Word).toNat ≤ 1 ∧ (255 : Word).toNat ≤ 255 ∧ (0x7FFFFF : Word).toNat ≤ 0x7FFFFF) ∧
    ¬ (2 : Word).toNat ≤ 1 ∧ ¬ (256 : Word).toNat ≤ 255 ∧ ¬ (0x800000 : Word).toNat ≤ 0x7FFFFF := by decide

theorem wit_digitCell : (31 : Nat) < 32 ∧ ones.digit 31 = 1 := by decide

end Sys2Proof.Machine
end

namespace Sys2Proof.Machine

/-!
PROOF. The scope statements (00_scope): what the selector fields name (R13), that a failed command writes ST alone
(R12), that a command is a function of its reads and STICKY (R3, 60_exceptions R209).
-/

/-! What the selector fields name. -/

theorem radixValue_decodeRadix (b : BitVec 1) : radixValue (decodeRadix b) = if b.toNat = 0 then 2 else 10 := by
  revert b; decide

theorem widthOf_decodeWidth (c : BitVec 2) :
    widthOf (decodeWidth c) = [some 8, some 16, some 32, none].getD c.toNat none := by
  revert c; decide

/-- Settles O4: the radix and width fields by their finitely many values, the count by the decoder's definition. -/
theorem selectorFieldsNameTheirValues : Obligations.SelectorFieldsNameTheirValues :=
  ⟨radixValue_decodeRadix, widthOf_decodeWidth, fun _ => rfl⟩

/-! A failed command. -/

/-- Settles O25: of the three things a command can do (`exec_cases`), clearing ST and raising write ST alone, and
committing results leaves ERR = 0. -/
theorem failedCommandChangesOnlyStatus : Obligations.FailedCommandChangesOnlyStatus := by
  intro i s t h herr
  obtain ⟨-, hexec⟩ | ⟨e, info, hexec⟩ | ⟨-, u, -, hexec⟩ := exec_cases i s <;>
    obtain rfl := Host.Outcome.next.inj (hexec.symm.trans h)
  · rfl
  · rfl
  · exact absurd (stErr_successStatus i.opcode u.st) herr

/-! A command and what it reads. -/

/-- Two outcomes of `i` show the same ST and, where that is a success, the same results (R209). -/
def EndsAlike (i : Instr) (o o' : Host.Outcome State Fault Refusal) : Prop :=
  ∀ t t', o = .next t → o' = .next t' → t.st = t'.st ∧ (stErr t.st = 0 → SameResults i t t')

/-- The status after a success depends on the old one through STICKY alone (R205). -/
theorem successStatus_congr (op : BitVec 4) {old old' : Word} (h : stSticky old = stSticky old') :
    successStatus op old = successStatus op old' := by
  rw [successStatus, h, successStatus]

/-- The results of a command are registers other than ST, so the success update leaves them (R38). -/
theorem sameResults_succeed {i : Instr} {t t' : State} (op : BitVec 4) (h : SameResults i t t') :
    SameResults i (t.succeed op) (t'.succeed op) := by
  cases i <;> exact h

/-- The same error raised from two states shows the same ST. -/
theorem endsAlike_error {i : Instr} {op : BitVec 4} {s s' : State} {e : ErrorKind × BitVec 8} :
    EndsAlike i (finish op s (.error e)) (finish op s' (.error e)) := by
  rintro _ _ ⟨⟩ ⟨⟩
  exact ⟨rfl, fun herr => absurd herr (by simp)⟩

/-- Equal results committed over equal STICKY bits end alike. -/
theorem endsAlike_ok {i : Instr} {op : BitVec 4} {s s' t t' : State} (hst : stSticky t.st = stSticky t'.st)
    (hres : SameResults i t t') : EndsAlike i (finish op s (.ok t)) (finish op s' (.ok t')) := by
  rintro _ _ ⟨⟩ ⟨⟩
  exact ⟨successStatus_congr op hst, fun _ => sameResults_succeed op hres⟩

section
variable {s s' : State} (hst : stSticky s.st = stSticky s'.st)
include hst

theorem execRcMac_endsAlike (r : Radix) (h : SameReads (.rcMac r) s s') :
    EndsAlike (.rcMac r) (execRcMac r s) (execRcMac r s') := by
  obtain ⟨ha, hb⟩ := h
  rw [execRcMac, execRcMac, ha, hb]
  split
  · exact endsAlike_error
  · exact endsAlike_ok hst rfl

theorem execRcDecode_endsAlike (r : Radix) (n : Nat) (h : SameReads (.rcDecode r n) s s') :
    EndsAlike (.rcDecode r n) (execRcDecode r n s) (execRcDecode r n s') := by
  rw [execRcDecode, execRcDecode, digitSeq_congr h]
  cases firstInvalid (radixValue r) (s'.digitSeq n) with
  | some k => exact endsAlike_error
  | none => exact endsAlike_ok hst rfl

theorem execRcEncode_endsAlike (r : Radix) (h : s.a = s'.a) :
    EndsAlike (.rcEncode r) (execRcEncode r s) (execRcEncode r s') := by
  rw [execRcEncode, execRcEncode, h]
  exact endsAlike_ok hst ⟨rfl, rfl, rfl, rfl, rfl⟩

theorem execTcNeg_endsAlike (wf : WidthCode) (h : SameReads (.tcNeg wf) s s') :
    EndsAlike (.tcNeg wf) (execTcNeg wf s) (execTcNeg wf s') := by
  rw [execTcNeg, execTcNeg]
  cases hw : widthOf wf with
  | none => exact endsAlike_error
  | some w => exact endsAlike_ok hst (congrArg (fun a => zext32 (negate a)) (h w hw))

theorem execTcNot_endsAlike (wf : WidthCode) (h : SameReads (.tcNot wf) s s') :
    EndsAlike (.tcNot wf) (execTcNot wf s) (execTcNot wf s') := by
  rw [execTcNot, execTcNot]
  cases hw : widthOf wf with
  | none => exact endsAlike_error
  | some w => exact endsAlike_ok hst (congrArg (fun a => zext32 (~~~a)) (h w hw))

theorem execTcSext_endsAlike (wf wt : WidthCode) (h : SameReads (.tcSext wf wt) s s') :
    EndsAlike (.tcSext wf wt) (execTcSext wf wt s) (execTcSext wf wt s') := by
  rw [execTcSext, execTcSext]
  obtain ⟨f, t, hf, -, hpair⟩ | ⟨-, hpair⟩ := widthPair_eq wf wt <;> simp only [hpair]
  · split
    · exact endsAlike_error
    · exact endsAlike_ok hst (congrArg (fun a : BitVec f => zext32 (a.signExtend t)) (h f hf))
  · exact endsAlike_error

theorem execTcTrunc_endsAlike (wf wt : WidthCode) (h : SameReads (.tcTrunc wf wt) s s') :
    EndsAlike (.tcTrunc wf wt) (execTcTrunc wf wt s) (execTcTrunc wf wt s') := by
  rw [execTcTrunc, execTcTrunc]
  obtain ⟨f, t, -, ht, hpair⟩ | ⟨-, hpair⟩ := widthPair_eq wf wt <;> simp only [hpair]
  · split
    · exact endsAlike_error
    · exact endsAlike_ok hst (congrArg zext32 (h t ht))
  · exact endsAlike_error

theorem execFcDecomp_endsAlike (h : s.a = s'.a) :
    EndsAlike .fcDecomp (execFcDecomp s) (execFcDecomp s') := by
  rw [execFcDecomp, execFcDecomp, h]
  exact endsAlike_ok hst ⟨rfl, rfl, rfl, rfl⟩

theorem execFcComp_endsAlike (h : SameReads .fcComp s s') :
    EndsAlike .fcComp (execFcComp s) (execFcComp s') := by
  obtain ⟨ha, hb, hc⟩ := h
  rw [execFcComp, execFcComp, ha, hb, hc]
  split
  · exact endsAlike_ok hst rfl
  · exact endsAlike_error

end

/-- CLRST reads nothing and leaves ST = 0 in every state (R190). -/
theorem execClrst_endsAlike (s s' : State) : EndsAlike .clrst (execClrst s) (execClrst s') := by
  rintro _ _ ⟨⟩ ⟨⟩
  exact ⟨rfl, fun _ => trivial⟩

/-- States that agree on a command's reads and on STICKY end it alike. -/
theorem exec_endsAlike (i : Instr) {s s' : State} (h : SameReads i s s') (hst : stSticky s.st = stSticky s'.st) :
    EndsAlike i (exec i s) (exec i s') := by
  cases i with
  | clrst => exact execClrst_endsAlike s s'
  | rcMac r => exact execRcMac_endsAlike hst r h
  | rcDecode r n => exact execRcDecode_endsAlike hst r n h
  | rcEncode r => exact execRcEncode_endsAlike hst r h
  | tcNeg wf => exact execTcNeg_endsAlike hst wf h
  | tcNot wf => exact execTcNot_endsAlike hst wf h
  | tcSext wf wt => exact execTcSext_endsAlike hst wf wt h
  | tcTrunc wf wt => exact execTcTrunc_endsAlike hst wf wt h
  | fcDecomp => exact execFcDecomp_endsAlike hst h
  | fcComp => exact execFcComp_endsAlike hst h

/-- Settles O26, command by command: equal reads give the same error or the same results, and STICKY the rest of ST. -/
theorem commandDependsOnlyOnItsReads : Obligations.CommandDependsOnlyOnItsReads :=
  fun i _ _ t t' hreads hst hs hs' => exec_endsAlike i hreads hst t t' hs hs'

end Sys2Proof.Machine

namespace Sys2Proof.Machine

/-!
PROOF. The state statements (10_state): the slots (R20, R33, R34), the digit cells (R31), reset (R37), the fields of ST
and its invariant (R27 to R30), what each command writes (R38), and the host's next action (R24).
-/

/-! The command a word names. -/

/-- A row of R73 names a command with the row's opcode that the command word can carry (R72, R77). -/
theorem rowOf_command {op : BitVec 4} {row : Row} (h : rowOf op = some row) (v : Word) :
    (row.command v).opcode = op ∧ (row.command v).WellFormed := by
  obtain ⟨n, hn⟩ := op
  interval_cases n <;> cases h
  -- RC_DECODE's row is the one whose command carries a digit count.
  on_goal 3 => exact ⟨rfl, (wellFormed_rcDecode _ _).mpr (decodeCount_bounds (fieldL v))⟩
  all_goals exact ⟨rfl, rfl⟩

/-- A word that decodes is selected by the row of its opcode, and the row names the command (R74). -/
theorem decode_eq_ok {v : Word} {i : Instr} (h : decode v = .ok i) :
    ∃ row, rowOf (fieldOP v) = some row ∧ v &&& row.mask = row.pattern ∧ row.command v = i := by
  rw [decode] at h
  split at h
  · cases h
  · rename_i row hrow
    split at h
    · rename_i hsel
      exact ⟨row, hrow, hsel, Except.ok.inj h⟩
    · cases h

/-- A decoded command's opcode is the word's OP field, and the command is well-formed. -/
theorem opcode_wellFormed_of_decode {v : Word} {i : Instr} (h : decode v = .ok i) :
    i.opcode = fieldOP v ∧ i.WellFormed := by
  obtain ⟨row, hrow, -, rfl⟩ := decode_eq_ok h
  exact rowOf_command hrow v

/-- Only the zero word names CLRST (R190). -/
theorem eq_zero_of_decode_clrst {v : Word} (h : decode v = .ok .clrst) : v = 0 := by
  obtain ⟨row, hrow, hsel, -⟩ := decode_eq_ok h
  rw [← (opcode_wellFormed_of_decode h).1] at hrow
  cases hrow
  exact BitVec.and_allOnes.symm.trans hsel

/-! What every command may leave. -/

/-- `t` differs from `s` at most in ST and in the registers R38 lists for `i`. -/
def WithinWrites (i : Instr) (s t : State) : Prop :=
  t.a = s.a ∧ t.b = s.b ∧ t.c = s.c ∧ t.cmd = s.cmd ∧
  t.pending = s.pending ∧ t.position = s.position ∧ t.returned = s.returned ∧
  (i ≠ .fcDecomp → t.r1 = s.r1 ∧ t.r2 = s.r2 ∧ t.r3 = s.r3) ∧
  ((∀ r, i ≠ .rcEncode r) →
    t.dig0 = s.dig0 ∧ t.dig1 = s.dig1 ∧ t.dig2 = s.dig2 ∧ t.dig3 = s.dig3) ∧
  (i = .clrst → t.r0 = s.r0)

/-- What a command's checks and results may be: an error R201 and R202 allow it, or results within its row of R38. -/
def AllowedResult (i : Instr) (s : State) : Except (ErrorKind × BitVec 8) State → Prop
  | .error (e, info) => i.WellFormed → StatusDetail (raisedStatus i.opcode e info)
  | .ok u => WithinWrites i s u

/-- Writing ST is within every command's row. -/
theorem withinWrites_st (i : Instr) (s : State) (st : Word) : WithinWrites i s { s with st := st } :=
  ⟨rfl, rfl, rfl, rfl, rfl, rfl, rfl, fun _ => ⟨rfl, rfl, rfl⟩, fun _ => ⟨rfl, rfl, rfl, rfl⟩, fun _ => rfl⟩

/-- R0 is within the row of every command but CLRST. -/
theorem allowedResult_setR0 {i : Instr} (hi : i ≠ .clrst) (s : State) (v : Word) :
    AllowedResult i s (.ok (s.setR0 v)) :=
  ⟨rfl, rfl, rfl, rfl, rfl, rfl, rfl, fun _ => ⟨rfl, rfl, rfl⟩, fun _ => ⟨rfl, rfl, rfl, rfl⟩,
    fun h => absurd h hi⟩

/-- All four result registers are within FC_DECOMP's row. -/
theorem allowedResult_setResults (s : State) (v0 v1 v2 v3 : Word) :
    AllowedResult .fcDecomp s (.ok (s.setResults v0 v1 v2 v3)) :=
  ⟨rfl, rfl, rfl, rfl, rfl, rfl, rfl, fun h => absurd rfl h, fun _ => ⟨rfl, rfl, rfl, rfl⟩, nofun⟩

/-- The digit buffer and R0 are within RC_ENCODE's row. -/
theorem allowedResult_setDigits_setR0 (r : Radix) (s : State) (d0 d1 d2 d3 v : Word) :
    AllowedResult (.rcEncode r) s (.ok ((s.setDigits d0 d1 d2 d3).setR0 v)) :=
  ⟨rfl, rfl, rfl, rfl, rfl, rfl, rfl, fun _ => ⟨rfl, rfl, rfl⟩, fun h => absurd rfl (h r), nofun⟩

/-- Some reserved code makes the InvalidWidth mask 1, 2 or 3 (R202). -/
theorem widthCodeMask_bounds {wf wt : WidthCode} (h : wf = .reserved ∨ wt = .reserved) :
    1 ≤ (widthCodeMask wf wt).toNat ∧ (widthCodeMask wf wt).toNat ≤ 3 := by
  obtain rfl | rfl := h
  · cases wt <;> decide
  · cases wf <;> decide

/-- The FieldOutOfRange mask has three bits (R202). -/
theorem fieldRangeMask_le (a b c : Word) : (fieldRangeMask a b c).toNat ≤ 7 := by
  rw [fieldRangeMask]
  split <;> split <;> split <;> decide

/-- The index RC_DECODE reports is below its digit count (R104). -/
theorem firstInvalid_digitSeq_lt {s : State} {r n k : Nat} (h : firstInvalid r (s.digitSeq n) = some k) : k < n := by
  obtain ⟨hk, -⟩ := firstInvalid_eq_some.mp h
  rwa [digitSeq_length] at hk

/-! The details R202 allows each error kind. -/

section
variable {op : BitVec 4} {info : BitVec 8}

theorem statusDetail_invalidDigit
    (h : op = opRcMac ∧ info = 0 ∨ op = opRcDecode ∧ info.toNat < 32) :
    StatusDetail (raisedStatus op .invalidDigit info) := by
  simpa [StatusDetail, errorCode] using h

theorem statusDetail_invalidWidth
    (h : (op = opTcNeg ∨ op = opTcNot) ∧ info = 1 ∨
      (op = opTcSext ∨ op = opTcTrunc) ∧ 1 ≤ info.toNat ∧ info.toNat ≤ 4) :
    StatusDetail (raisedStatus op .invalidWidth info) := by
  simpa [StatusDetail, errorCode] using h

theorem statusDetail_fieldOutOfRange (hop : op = opFcComp) (h1 : 1 ≤ info.toNat) (h7 : info.toNat ≤ 7) :
    StatusDetail (raisedStatus op .fieldOutOfRange info) := by
  simpa [StatusDetail, errorCode] using ⟨hop, h1, h7⟩

theorem statusDetail_illegalCommand
    (h : op.toNat < 10 ∧ info = 2 ∨ 10 ≤ op.toNat ∧ (info = 1 ∨ info = 3)) :
    StatusDetail (raisedStatus op .illegalCommand info) := by
  simpa [StatusDetail, errorCode] using h

end

/-- A two-width command's detail is the mask of its reserved codes, or 4 for widths in the wrong order (R134, R135). -/
theorem statusDetail_widthPair {op : BitVec 4} (hop : op = opTcSext ∨ op = opTcTrunc) {wf wt : WidthCode}
    (h : wf = .reserved ∨ wt = .reserved) :
    StatusDetail (raisedStatus op .invalidWidth (widthCodeMask wf wt)) := by
  obtain ⟨h1, h3⟩ := widthCodeMask_bounds h
  exact statusDetail_invalidWidth (.inr ⟨hop, h1, by omega⟩)

/-! The result of each command but CLRST is an allowed one. -/

theorem execRcMac_allowed (r : Radix) (s : State) :
    ∃ result, execRcMac r s = finish opRcMac s result ∧ AllowedResult (.rcMac r) s result := by
  refine ⟨_, rfl, ?_⟩
  split
  · exact fun _ => statusDetail_invalidDigit (.inl ⟨rfl, rfl⟩)
  · exact allowedResult_setR0 (by nofun) s _

theorem execRcDecode_allowed (r : Radix) (n : Nat) (s : State) :
    ∃ result, execRcDecode r n s = finish opRcDecode s result ∧ AllowedResult (.rcDecode r n) s result := by
  refine ⟨_, rfl, ?_⟩
  split
  · rename_i k hk
    intro hwf
    have hkn := firstInvalid_digitSeq_lt hk
    obtain ⟨-, hn⟩ := (wellFormed_rcDecode r n).mp hwf
    refine statusDetail_invalidDigit (.inr ⟨rfl, ?_⟩)
    rw [BitVec.toNat_ofNat]
    omega
  · exact allowedResult_setR0 (by nofun) s _

theorem execTcNeg_allowed (wf : WidthCode) (s : State) :
    ∃ result, execTcNeg wf s = finish opTcNeg s result ∧ AllowedResult (.tcNeg wf) s result := by
  refine ⟨_, rfl, ?_⟩
  split
  · exact fun _ => statusDetail_invalidWidth (.inl ⟨.inl rfl, rfl⟩)
  · exact allowedResult_setR0 (by nofun) s _

theorem execTcNot_allowed (wf : WidthCode) (s : State) :
    ∃ result, execTcNot wf s = finish opTcNot s result ∧ AllowedResult (.tcNot wf) s result := by
  refine ⟨_, rfl, ?_⟩
  split
  · exact fun _ => statusDetail_invalidWidth (.inl ⟨.inr rfl, rfl⟩)
  · exact allowedResult_setR0 (by nofun) s _

theorem execTcSext_allowed (wf wt : WidthCode) (s : State) :
    ∃ result, execTcSext wf wt s = finish opTcSext s result ∧ AllowedResult (.tcSext wf wt) s result := by
  refine ⟨_, rfl, ?_⟩
  obtain ⟨f, t, -, -, hpair⟩ | ⟨hres, hpair⟩ := widthPair_eq wf wt <;> simp only [hpair]
  · split
    · exact fun _ => statusDetail_invalidWidth (.inr ⟨.inl rfl, by decide⟩)
    · exact allowedResult_setR0 (by nofun) s _
  · exact fun _ => statusDetail_widthPair (.inl rfl) hres

theorem execTcTrunc_allowed (wf wt : WidthCode) (s : State) :
    ∃ result, execTcTrunc wf wt s = finish opTcTrunc s result ∧ AllowedResult (.tcTrunc wf wt) s result := by
  refine ⟨_, rfl, ?_⟩
  obtain ⟨f, t, -, -, hpair⟩ | ⟨hres, hpair⟩ := widthPair_eq wf wt <;> simp only [hpair]
  · split
    · exact fun _ => statusDetail_invalidWidth (.inr ⟨.inr rfl, by decide⟩)
    · exact allowedResult_setR0 (by nofun) s _
  · exact fun _ => statusDetail_widthPair (.inr rfl) hres

theorem execFcComp_allowed (s : State) :
    ∃ result, execFcComp s = finish opFcComp s result ∧ AllowedResult .fcComp s result := by
  refine ⟨_, rfl, ?_⟩
  split
  · exact allowedResult_setR0 (by nofun) s _
  · rename_i hmask
    have hpos : (fieldRangeMask s.a s.b s.c).toNat ≠ 0 := fun h => hmask (BitVec.eq_of_toNat_eq h)
    exact fun _ => statusDetail_fieldOutOfRange rfl (by omega) (fieldRangeMask_le s.a s.b s.c)

/-- What `exec` computes before it writes anything, for all ten commands but CLRST (R12, R38, R201). -/
theorem exec_allowed (i : Instr) (s : State) (hi : i ≠ .clrst) :
    ∃ result, exec i s = finish i.opcode s result ∧ AllowedResult i s result := by
  cases i with
  | clrst => exact absurd rfl hi
  | rcMac r => exact execRcMac_allowed r s
  | rcDecode r n => exact execRcDecode_allowed r n s
  | rcEncode r => exact ⟨_, rfl, allowedResult_setDigits_setR0 r s _ _ _ _ _⟩
  | tcNeg wf => exact execTcNeg_allowed wf s
  | tcNot wf => exact execTcNot_allowed wf s
  | tcSext wf wt => exact execTcSext_allowed wf wt s
  | tcTrunc wf wt => exact execTcTrunc_allowed wf wt s
  | fcDecomp => exact ⟨_, rfl, allowedResult_setResults s _ _ _ _⟩
  | fcComp => exact execFcComp_allowed s

/-- Every command answers, within its row of R38. -/
theorem exec_withinWrites (i : Instr) (s : State) : ∃ t, exec i s = .next t ∧ WithinWrites i s t := by
  by_cases hi : i = .clrst
  · subst hi
    exact ⟨_, rfl, withinWrites_st .clrst s 0⟩
  · obtain ⟨result, hexec, hallowed⟩ := exec_allowed i s hi
    obtain ⟨e, info, -, hfin⟩ | ⟨u, rfl, hfin⟩ := finish_cases i.opcode s result
    · exact ⟨_, hexec.trans hfin, withinWrites_st i s _⟩
    · exact ⟨_, hexec.trans hfin, hallowed⟩

/-- Settles O24: the command ends by clearing ST, by an error that writes ST alone, or by results within its row. -/
theorem everyCommandCompletesWithinItsWrites : Obligations.EveryCommandCompletesWithinItsWrites :=
  exec_withinWrites

/-! The status every command leaves. -/

/-- A well-formed command leaves an ERR, STICKY and EINFO that fit together (R28 to R30, R201, R202). -/
theorem exec_statusDetail {i : Instr} {s t : State} (hwf : i.WellFormed) (h : exec i s = .next t) :
    StatusDetail t.st := by
  by_cases hi : i = .clrst
  · subst hi
    obtain rfl := Host.Outcome.next.inj h
    exact .inl ⟨stErr_zero, stEinfo_zero⟩
  · obtain ⟨result, hexec, hallowed⟩ := exec_allowed i s hi
    obtain ⟨e, info, rfl, hfin⟩ | ⟨u, -, hfin⟩ := finish_cases i.opcode s result <;>
      obtain rfl := Host.Outcome.next.inj ((hexec.trans hfin).symm.trans h)
    · exact hallowed hwf
    · exact .inl ⟨stErr_successStatus _ _, stEinfo_successStatus _ _⟩

/-- Whichever way a command ends, LASTOP is its opcode and ST[31:16] = 0 (R27, R30). -/
theorem exec_lastop_reserved {i : Instr} {s t : State} (h : exec i s = .next t) :
    stReserved t.st = 0 ∧ stLastop t.st = i.opcode := by
  obtain ⟨rfl, hexec⟩ | ⟨e, info, hexec⟩ | ⟨-, u, -, hexec⟩ := exec_cases i s <;>
    obtain rfl := Host.Outcome.next.inj (hexec.symm.trans h)
  · exact ⟨stReserved_zero, stLastop_zero⟩
  · exact ⟨stReserved_raisedStatus _ _ _, stLastop_raisedStatus _ _ _⟩
  · exact ⟨stReserved_successStatus _ _, stLastop_successStatus _ _⟩

/-- A command other than CLRST leaves STICKY set exactly if it was set or the command failed (R29). -/
theorem exec_sticky {i : Instr} {s t : State} (hi : i ≠ .clrst) (h : exec i s = .next t) :
    stSticky t.st = (stSticky s.st || stErr t.st != 0) := by
  obtain ⟨rfl, -⟩ | ⟨e, info, hexec⟩ | ⟨-, u, hu, hexec⟩ := exec_cases i s
  · exact absurd rfl hi
  · obtain rfl := Host.Outcome.next.inj (hexec.symm.trans h)
    simp
  · obtain rfl := Host.Outcome.next.inj (hexec.symm.trans h)
    simp [hu]

/-! A word written to CMD. -/

/-- IllegalCommand's detail says whether the opcode is reserved (R78, R79, R202). -/
theorem statusDetail_decode_error {v : Word} {cause : IllegalCause} (h : decode v = .error cause) :
    StatusDetail (raisedStatus (fieldOP v) .illegalCommand (illegalInfo cause)) := by
  apply statusDetail_illegalCommand
  by_cases hop : (fieldOP v).toNat < 10
  · obtain ⟨row, hrow⟩ := rowOf_isSome hop
    rw [decode_of_row hrow] at h
    split at h <;> cases h
    exact .inl ⟨hop, rfl⟩
  · rw [decode_of_reserved (by omega)] at h
    cases h
    refine .inr ⟨by omega, ?_⟩
    rw [illegalInfo]
    split
    · exact .inr rfl
    · exact .inl rfl

/-- Whatever the word, ST then tracks its opcode and is one the rules allow (R27 to R30). -/
theorem execute_status {v : Word} {s t : State} (h : execute v s = .next t) :
    stReserved t.st = 0 ∧ stLastop t.st = fieldOP v ∧ StatusDetail t.st := by
  obtain ⟨i, hdec, hexec⟩ | ⟨cause, hdec, hexec⟩ := execute_cases v s <;> rw [hexec] at h
  · obtain ⟨hop, hwf⟩ := opcode_wellFormed_of_decode hdec
    obtain ⟨hres, hlast⟩ := exec_lastop_reserved h
    exact ⟨hres, hlast.trans hop, exec_statusDetail hwf h⟩
  · obtain rfl := Host.Outcome.next.inj h
    exact ⟨stReserved_raisedStatus _ _ _, stLastop_raisedStatus _ _ _, statusDetail_decode_error hdec⟩

/-- A command word leaves CMD and the host's side alone. -/
theorem execute_frame {v : Word} {s t : State} (h : execute v s = .next t) :
    t.cmd = s.cmd ∧ t.pending = s.pending ∧ t.position = s.position ∧ t.returned = s.returned := by
  obtain ⟨i, -, hexec⟩ | ⟨cause, -, hexec⟩ := execute_cases v s <;> rw [hexec] at h
  · obtain ⟨u, hu, -, -, -, hcmd, hpend, hpos, hret, -⟩ := exec_withinWrites i s
    obtain rfl := Host.Outcome.next.inj (hu.symm.trans h)
    exact ⟨hcmd, hpend, hpos, hret⟩
  · obtain rfl := Host.Outcome.next.inj h
    exact ⟨rfl, rfl, rfl, rfl⟩

/-- CLRST's word clears STICKY; any other word keeps it, or sets it by failing (R29). -/
theorem execute_sticky {v : Word} {s t : State} (h : execute v s = .next t) :
    stSticky t.st = if v = 0 then false else stSticky s.st || stErr t.st != 0 := by
  by_cases hv : v = 0
  · subst hv
    obtain rfl := Host.Outcome.next.inj h
    rw [if_pos rfl]
    exact stSticky_zero
  · rw [if_neg hv]
    obtain ⟨i, hdec, hexec⟩ | ⟨cause, -, hexec⟩ := execute_cases v s <;> rw [hexec] at h
    · refine exec_sticky ?_ h
      rintro rfl
      exact hv (eq_zero_of_decode_clrst hdec)
    · obtain rfl := Host.Outcome.next.inj h
      simp

/-- A CMD write leaves the word in CMD, and the host's side as it was. -/
theorem hostWrite_cmd_frame {v : Word} {s t : State} (h : hostWrite 3 v s = .next t) :
    t.cmd = v ∧ t.pending = s.pending ∧ t.position = s.position ∧ t.returned = s.returned :=
  execute_frame h

/-- A detail stands only beside an error (R30). -/
theorem stEinfo_eq_zero_of_stErr_eq_zero {st : Word} (h : StatusDetail st) (herr : stErr st = 0) :
    stEinfo st = 0 := by
  obtain ⟨-, hinfo⟩ | ⟨hcode, -⟩ | ⟨hcode, -⟩ | ⟨hcode, -⟩ | ⟨hcode, -⟩ := h
  · exact hinfo
  all_goals exact absurd (hcode.symm.trans herr) (by decide)

/-- Settles O20, from the status a command word leaves and what it does not write. -/
theorem everyCommandWriteSetsLastop : Obligations.EveryCommandWriteSetsLastop := by
  intro s t v h
  obtain ⟨hres, hlast, hdetail⟩ := execute_status h
  obtain ⟨hcmd, -⟩ := hostWrite_cmd_frame h
  exact ⟨hlast, hres, stEinfo_eq_zero_of_stErr_eq_zero hdetail, hcmd⟩

/-! The host's action. -/

/-- What an answered action `x` of the host did: a read gave a value back, a write stored in a slot other than CMD, a
word written to CMD ran, or reset was asserted. -/
inductive ActionEffect (x : HostAction) (s t : State) : Prop where
  | gaveBack (v : Word) (access : x.isAccess = true) (noReset : x.isReset = false) (noWord : x.commandWord? = none)
      (after : t = s.countAccess.giveBack v)
  | stored (k : Slot) (v : Word) (access : x.isAccess = true) (noReset : x.isReset = false)
      (noWord : x.commandWord? = none) (notCmd : k ≠ 3) (after : t = s.countAccess.storeSlot k v)
  | ran (v : Word) (access : x.isAccess = true) (noReset : x.isReset = false) (word : x.commandWord? = some v)
      (after : hostWrite 3 v s.countAccess = .next t)
  | wasReset (reset : x.isReset = true) (after : t = (if x.isAccess then s.countAccess else s).resetBlock)

/-- A write access through either view of the slots has one of the two effects of a write (R52, R53). -/
theorem actionEffect_of_hostWrite {x : HostAction} {s t : State} {k : Slot} {v : Word} (access : x.isAccess = true)
    (noReset : x.isReset = false) (word : x.commandWord? = if k = 3 then some v else none)
    (h : hostWrite k v s.countAccess = .next t) : ActionEffect x s t := by
  by_cases hk : k = 3
  · subst hk
    exact .ran v access noReset word h
  · rw [hostWrite_of_ne hk] at h
    exact .stored k v access noReset (word.trans (if_neg hk)) hk (Host.Outcome.next.inj h).symm

/-- An answered action has one of the four effects; the byte-addressed view has those of the slot it names (R53). -/
theorem hostAction_effect {x : HostAction} {s t : State} (h : hostAction x s = .next t) : ActionEffect x s t := by
  cases x with
  | read k => exact .gaveBack _ rfl rfl rfl (Host.Outcome.next.inj h).symm
  | write k v => exact actionEffect_of_hostWrite rfl rfl rfl h
  | busRead addr n =>
    cases hslot : busSlot addr n with
    | none => rw [hostAction_busRead_none hslot] at h; cases h
    | some k =>
      rw [hostAction_busRead_some hslot] at h
      exact .gaveBack _ rfl rfl rfl (Host.Outcome.next.inj h).symm
  | busWrite addr n v =>
    cases hslot : busSlot addr n with
    | none => rw [hostAction_busWrite_none hslot] at h; cases h
    | some k =>
      rw [hostAction_busWrite_some hslot] at h
      exact actionEffect_of_hostWrite rfl rfl (by simp [HostAction.commandWord?, hslot]) h
  | reset => exact .wasReset rfl (Host.Outcome.next.inj h).symm
  | resetDuringCmd v => exact .wasReset rfl (Host.Outcome.next.inj h).symm

/-- A step that answers has done nothing, or the effect of the host's next action. -/
theorem step_effect {s t : State} (h : step s = .next t) :
    (s.pending = [] ∧ t = s) ∨ ∃ x rest, s.pending = x :: rest ∧ ActionEffect x (s.takeAction rest) t := by
  cases hp : s.pending with
  | nil =>
    rw [step_of_nil hp] at h
    exact .inl ⟨rfl, (Host.Outcome.next.inj h).symm⟩
  | cons x rest =>
    rw [step_of_cons hp] at h
    exact .inr ⟨x, rest, rfl, hostAction_effect h⟩

/-! The status invariant. -/

theorem statusInv_reset : StatusInv State.reset :=
  ⟨⟨stReserved_zero, stLastop_zero⟩, .inl ⟨stErr_zero, stEinfo_zero⟩⟩

/-- Settles O22: every field of a zero ST is zero, which is the success code and CLRST's opcode. -/
theorem statusInvariantHoldsAtReset : Obligations.StatusInvariantHoldsAtReset := statusInv_reset

/-- The invariant speaks of CMD and ST alone. -/
theorem statusInv_congr {s t : State} (hcmd : t.cmd = s.cmd) (hst : t.st = s.st) (h : StatusInv s) : StatusInv t := by
  rwa [StatusInv, StatusTracksCmd, hcmd, hst]

/-- Every word written to CMD establishes the invariant, whatever held before. -/
theorem hostWrite_cmd_statusInv {v : Word} {s t : State} (h : hostWrite 3 v s = .next t) : StatusInv t := by
  obtain ⟨hres, hlast, hdetail⟩ := execute_status h
  obtain ⟨hcmd, -⟩ := hostWrite_cmd_frame h
  exact ⟨⟨hres, hcmd ▸ hlast⟩, hdetail⟩

/-- Settles O23: a word written to CMD and reset establish the invariant, and no other action touches CMD or ST. -/
theorem everyStepKeepsTheStatusInvariant : Obligations.EveryStepKeepsTheStatusInvariant := by
  intro s t hinv h
  obtain ⟨-, rfl⟩ | ⟨x, rest, -, heffect⟩ := step_effect h
  · exact hinv
  · cases heffect with
    | gaveBack v _ _ _ after => subst after; exact statusInv_congr rfl rfl hinv
    | stored k v _ _ _ notCmd after =>
      subst after
      exact statusInv_congr (storeSlot_cmd _ k v notCmd) (storeSlot_st _ k v) hinv
    | ran v _ _ _ after => exact hostWrite_cmd_statusInv after
    | wasReset _ after => subst after; exact statusInv_congr rfl rfl statusInv_reset

/-- Settles O21: the write of CLRST's word and reset clear STICKY, any other word keeps it or sets it by failing, and no
other action touches ST. -/
theorem stickyIsClearedOnlyByClrstAndReset : Obligations.StickyIsClearedOnlyByClrstAndReset := by
  intro s t x rest hp h
  rw [step_of_cons hp] at h
  cases hostAction_effect h with
  | gaveBack v _ noReset noWord after => subst after; simp [noReset, noWord]
  | stored k v _ noReset noWord _ after => subst after; simp [noReset, noWord, storeSlot_st]
  | ran v _ noReset word after => simpa [noReset, word] using execute_sticky after
  | wasReset reset after => subst after; simp [reset]

/-! The order of the host's actions. -/

/-- An action leaves the rest of the host's list, counts one position if it is an access, and only adds to the values
given back. -/
theorem actionEffect_host {x : HostAction} {s t : State} (h : ActionEffect x s t) :
    t.pending = s.pending ∧ t.position = s.position + (if x.isAccess then 1 else 0) ∧
      s.returned <+: t.returned := by
  cases h with
  | gaveBack v access _ _ after => subst after; simp [access]
  | stored k v access _ _ _ after =>
    obtain ⟨hpend, hpos, hret⟩ := storeSlot_host s.countAccess k v
    subst after
    simp [access, hpend, hpos, hret]
  | ran v access _ _ after =>
    obtain ⟨-, hpend, hpos, hret⟩ := hostWrite_cmd_frame after
    simp [access, hpend, hpos, hret]
  | wasReset _ after => subst after; split <;> simp

/-- Settles O15, by what one action leaves of the host's side. -/
theorem stepTakesTheNextActionInOrder : Obligations.StepTakesTheNextActionInOrder := by
  intro s t h
  obtain ⟨hp, rfl⟩ | ⟨x, rest, hp, heffect⟩ := step_effect h
  · simp [hp]
  · obtain ⟨hpend, hpos, hret⟩ := actionEffect_host heffect
    exact ⟨by simp [hp, hpend], by simp [hp, hpos], hret, by simp [hp]⟩

/-! The slots. -/

/-- Settles O9: the decoded command runs in the state of the write. -/
theorem stepRunsTheDecodedCommand : Obligations.StepRunsTheDecodedCommand := by
  intro s v rest i hp hdec _
  rw [step_of_cons hp]
  calc hostWrite 3 v (s.takeAction rest).countAccess
    _ = execute v { s with cmd := v, pending := rest, position := s.position + 1 } := rfl
    _ = exec i { s with cmd := v, pending := rest, position := s.position + 1 } := by rw [execute, hdec]

/-- Settles O10, by the table of the slots' values. -/
theorem hostReadReturnsTheSlot : Obligations.HostReadReturnsTheSlot := by
  intro s k rest hp
  rw [step_of_cons hp, ← slot_eq_getD]
  rfl

/-- The writable slots other than CMD (R34, R52). -/
theorem mem_writable_iff_of_ne_cmd : ∀ k : Slot, k ≠ 3 →
    (k ∈ ([0, 1, 2, 3, 9, 10, 11, 12] : List Slot) ↔ k ∈ ([0, 1, 2, 9, 10, 11, 12] : List Slot)) := by
  decide

/-- Settles O11: the store acts slot by slot, and a write to CMD runs its word after it. -/
theorem hostWriteActsBySlot : Obligations.HostWriteActsBySlot := by
  intro s k v rest hp
  rw [step_of_cons hp]
  constructor
  · intro hk
    refine ⟨_, hostWrite_of_ne hk v _, fun j => ?_, storeSlot_host _ k v⟩
    simp only [slot_storeSlot, mem_writable_iff_of_ne_cmd k hk]
    rfl
  · rintro rfl
    rfl

/-! Reset. -/

/-- Settles O13: reset's slots and cells are State.reset's, the host's side is kept. -/
theorem resetClearsEverySlot : Obligations.ResetClearsEverySlot := by
  have hslot : ∀ k : Slot, State.reset.slot k = 0 := by decide
  have hdigit : ∀ i, i < 32 → State.reset.digit i = 0 := by decide
  refine ⟨hslot, fun s rest hp => ⟨(s.takeAction rest).resetBlock, step_of_cons hp, hslot, fun i hi => ?_,
    stErr_zero, stSticky_zero, rfl, rfl, rfl⟩⟩
  exact (digit_congr rfl rfl rfl rfl i).trans (hdigit i hi)

/-! Fields read as numbers. -/

/-- A field of a word as a number: bits `k` to `k + n - 1`. -/
theorem toNat_extractLsb' (v : Word) (k n : Nat) : (v.extractLsb' k n).toNat = v.toNat / 2 ^ k % 2 ^ n := by
  rw [BitVec.extractLsb'_toNat, Nat.shiftRight_eq_div_pow]

/-- Settles O17, each field by its bits. -/
theorem statusFieldsSitAtTheirBits : Obligations.StatusFieldsSitAtTheirBits := by
  intro st
  refine ⟨?_, ?_, toNat_extractLsb' st 4 4, toNat_extractLsb' st 8 8, ?_⟩
  · simp [stErr]
  · rw [stSticky, BitVec.getLsbD, Nat.testBit_eq_decide_div_mod_eq, decide_eq_true_eq]
  · rw [stReserved, toNat_extractLsb']
    exact Nat.mod_eq_of_lt (Nat.div_lt_of_lt_mul st.isLt)

/-- The four digit words as a list (R31). -/
theorem digitWord_eq_getD (s : State) {j : Nat} (h : j < 4) :
    s.digitWord j = [s.dig0, s.dig1, s.dig2, s.dig3].getD j 0 := by
  interval_cases j <;> rfl

/-- Settles O29: the cell is four bits of its digit word, at 2^(4k) = 16^k. -/
theorem digitCellIsFourBitsOfItsWord : Obligations.DigitCellIsFourBitsOfItsWord := by
  intro s i hi
  rw [State.digit, toNat_extractLsb', digitWord_eq_getD s (by omega), show 16 = 2 ^ 4 from rfl, ← pow_mul]

end Sys2Proof.Machine

namespace Sys2Proof.Machine

/-!
PROOF. The memory statements (20_memory): the byte-addressed view of the slots (R53), which host action the machine does
not answer (R53, R200, R207), and the second write of one command word (R56).
-/

/-! The byte-addressed view. -/

/-- An access names no slot exactly when it is not four bytes at some BASE + 4k (R53). -/
theorem busSlot_eq_none (addr n : Nat) :
    busSlot addr n = none ↔ ¬ (n = 4 ∧ ∃ k : Slot, addr = Config.base + 4 * k.toNat) := by
  simp only [Option.eq_none_iff_forall_ne_some, ne_eq, busSlot_eq_some, ← not_exists, exists_and_left]

/-- A step at the host's action `x`, put at the head of its list. -/
theorem step_pending_cons (x : HostAction) (rest : List HostAction) (s : State) :
    step { s with pending := x :: rest } = hostAction x (s.takeAction rest) := step_of_cons rfl

/-- Settles O12: an access that names a slot is the slot's own action, and one that names none is refused. -/
theorem busAccessIsSlotAccessOrRefused : Obligations.BusAccessIsSlotAccessOrRefused := by
  refine ⟨Nat.mul_mod_right 64 Config.baseBlock, fun s rest addr n v => ⟨fun k haddr hn => ?_, fun hnone => ?_⟩⟩
  · have hslot : busSlot addr n = some k := (busSlot_eq_some addr n k).mpr ⟨hn, haddr⟩
    simp only [step_pending_cons]
    exact ⟨hostAction_busRead_some hslot _, hostAction_busWrite_some hslot v _⟩
  · have hslot : busSlot addr n = none := (busSlot_eq_none addr n).mpr hnone
    simp only [step_pending_cons]
    exact ⟨hostAction_busRead_none hslot _, hostAction_busWrite_none hslot v _⟩

/-! Which actions the machine answers. -/

/-- Every word written to CMD is answered, an illegal one by its error (R74, R200). -/
theorem execute_answers (v : Word) (s : State) : ∃ t, execute v s = .next t := by
  obtain ⟨i, -, hexec⟩ | ⟨cause, -, hexec⟩ := execute_cases v s
  · obtain ⟨t, ht, -⟩ := exec_withinWrites i s
    exact ⟨t, hexec.trans ht⟩
  · exact ⟨_, hexec⟩

/-- Every slot write is answered. -/
theorem hostWrite_answers (k : Slot) (v : Word) (s : State) : ∃ t, hostWrite k v s = .next t := by
  by_cases hk : k = 3
  · subst hk
    exact execute_answers v _
  · exact ⟨_, hostWrite_of_ne hk v s⟩

/-- The host's action is answered unless it is an access that names no slot (R53). -/
theorem hostAction_answers_iff (x : HostAction) (s : State) :
    (∃ t, hostAction x s = .next t) ↔ ¬ x.NoTransaction := by
  cases x with
  | read k => exact iff_of_true ⟨_, rfl⟩ not_false
  | write k v => exact iff_of_true (hostWrite_answers k v _) not_false
  | busRead addr n =>
    rw [HostAction.NoTransaction, ← busSlot_eq_none]
    cases hslot : busSlot addr n with
    | none => simp [hostAction_busRead_none hslot]
    | some k => exact iff_of_true ⟨_, hostAction_busRead_some hslot s⟩ nofun
  | busWrite addr n v =>
    rw [HostAction.NoTransaction, ← busSlot_eq_none]
    cases hslot : busSlot addr n with
    | none => simp [hostAction_busWrite_none hslot]
    | some k =>
      rw [hostAction_busWrite_some hslot]
      exact iff_of_true (hostWrite_answers k v _) nofun
  | reset => exact iff_of_true ⟨_, rfl⟩ not_false
  | resetDuringCmd v => exact iff_of_true ⟨_, rfl⟩ not_false

/-- Settles O16: a step with nothing pending answers, and any other is the host's next action. -/
theorem onlyANonTransactionStopsTheMachine : Obligations.OnlyANonTransactionStopsTheMachine := by
  intro s
  cases hp : s.pending with
  | nil => simp [step_of_nil hp]
  | cons x rest => simp [step_of_cons hp, hostAction_answers_iff]

/-! The second write of a command word. -/

/-- From `s` a command ends in one error, or with one value in R0, whatever R0 and ST hold: it reads neither, but for
STICKY in the success update. -/
inductive EndsInR0 (op : BitVec 4) (run : State → Host.Outcome State Fault Refusal) (s : State) : Prop where
  | error (e : ErrorKind) (info : BitVec 8)
      (ends : ∀ r0 st, run { s with r0 := r0, st := st } = .next { s with r0 := r0, st := raisedStatus op e info })
  | value (v : Word)
      (ends : ∀ r0 st, run { s with r0 := r0, st := st } = .next { s with r0 := v, st := successStatus op st })

/-- Such a command ends the same way from the state it left. -/
theorem EndsInR0.idempotent {op : BitVec 4} {run : State → Host.Outcome State Fault Refusal} {s t : State}
    (hrun : EndsInR0 op run s) (h : run s = .next t) : run t = .next t := by
  cases hrun with
  | error e info ends =>
    obtain rfl := Host.Outcome.next.inj ((ends s.r0 s.st).symm.trans h)
    exact ends s.r0 _
  | value v ends =>
    obtain rfl := Host.Outcome.next.inj ((ends s.r0 s.st).symm.trans h)
    rw [ends v, successStatus_successStatus]

/-! The seven commands whose results are R0 alone (R38). -/

theorem execRcMac_endsInR0 (r : Radix) (s : State) : EndsInR0 opRcMac (execRcMac r) s := by
  by_cases hd : radixValue r ≤ s.b.toNat
  · exact .error _ _ fun _ _ => by rw [execRcMac, if_pos hd, finish_raise]
  · exact .value (hornerStep (radixValue r) s.a s.b.toNat) fun _ _ => by rw [execRcMac, if_neg hd, finish_setR0]

theorem execRcDecode_endsInR0 (r : Radix) (n : Nat) (s : State) : EndsInR0 opRcDecode (execRcDecode r n) s := by
  have hseq : ∀ r0 st, ({ s with r0 := r0, st := st } : State).digitSeq n = s.digitSeq n := fun _ _ => rfl
  cases hk : firstInvalid (radixValue r) (s.digitSeq n) with
  | some k =>
    refine .error .invalidDigit (BitVec.ofNat 8 k) fun _ _ => ?_
    simp only [execRcDecode, hseq, hk, finish_raise]
  | none =>
    refine .value (horner (radixValue r) (s.digitSeq n)) fun _ _ => ?_
    simp only [execRcDecode, hseq, hk, finish_setR0]

theorem execTcNeg_endsInR0 (wf : WidthCode) (s : State) : EndsInR0 opTcNeg (execTcNeg wf) s := by
  unfold execTcNeg
  cases widthOf wf with
  | none => exact .error _ _ fun _ _ => finish_raise _ _ _ _
  | some w => exact .value (zext32 (negate (s.operandA w))) fun _ _ => finish_setR0 _ _ _

theorem execTcNot_endsInR0 (wf : WidthCode) (s : State) : EndsInR0 opTcNot (execTcNot wf) s := by
  unfold execTcNot
  cases widthOf wf with
  | none => exact .error _ _ fun _ _ => finish_raise _ _ _ _
  | some w => exact .value (zext32 (~~~s.operandA w)) fun _ _ => finish_setR0 _ _ _

theorem execTcSext_endsInR0 (wf wt : WidthCode) (s : State) : EndsInR0 opTcSext (execTcSext wf wt) s := by
  unfold execTcSext
  rcases widthPair wf wt with ⟨e, info⟩ | ⟨f, t⟩
  · exact .error _ _ fun _ _ => finish_raise _ _ _ _
  · by_cases horder : f > t
    · exact .error _ _ fun _ _ => congrArg (finish _ _) (if_pos horder)
    · exact .value (zext32 ((s.operandA f).signExtend t)) fun _ _ => congrArg (finish _ _) (if_neg horder)

theorem execTcTrunc_endsInR0 (wf wt : WidthCode) (s : State) : EndsInR0 opTcTrunc (execTcTrunc wf wt) s := by
  unfold execTcTrunc
  rcases widthPair wf wt with ⟨e, info⟩ | ⟨f, t⟩
  · exact .error _ _ fun _ _ => finish_raise _ _ _ _
  · by_cases horder : f < t
    · exact .error _ _ fun _ _ => congrArg (finish _ _) (if_pos horder)
    · exact .value (zext32 (s.operandA t)) fun _ _ => congrArg (finish _ _) (if_neg horder)

theorem execFcComp_endsInR0 (s : State) : EndsInR0 opFcComp execFcComp s := by
  by_cases hmask : fieldRangeMask s.a s.b s.c = 0#8
  · refine .value (floatPattern (s.a.setWidth 1) (s.b.setWidth 8) (s.c.setWidth 23)) fun _ _ => ?_
    rw [execFcComp, if_pos hmask, finish_setR0]
  · refine .error .fieldOutOfRange (fieldRangeMask s.a s.b s.c) fun _ _ => ?_
    rw [execFcComp, if_neg hmask, finish_raise]

/-! The two with other results, which never fail. -/

/-- RC_ENCODE reads A alone, which it does not write (R105). -/
theorem execRcEncode_idempotent (r : Radix) {s t : State} (h : execRcEncode r s = .next t) :
    execRcEncode r t = .next t := by
  rw [execRcEncode, finish_setDigits_setR0] at h ⊢
  obtain rfl := Host.Outcome.next.inj h
  rw [successStatus_successStatus]

/-- FC_DECOMP reads A alone, which it does not write (R161). -/
theorem execFcDecomp_idempotent {s t : State} (h : execFcDecomp s = .next t) : execFcDecomp t = .next t := by
  rw [execFcDecomp, finish_setResults] at h ⊢
  obtain rfl := Host.Outcome.next.inj h
  rw [successStatus_successStatus]

/-! All ten, and the word. -/

/-- A command run again from the state it left leaves that state: of what it wrote it reads STICKY alone (R38). -/
theorem exec_idempotent {i : Instr} {s t : State} (h : exec i s = .next t) : exec i t = .next t := by
  cases i with
  | clrst => obtain rfl := Host.Outcome.next.inj h; rfl
  | rcMac r => exact (execRcMac_endsInR0 r s).idempotent h
  | rcDecode r n => exact (execRcDecode_endsInR0 r n s).idempotent h
  | rcEncode r => exact execRcEncode_idempotent r h
  | tcNeg wf => exact (execTcNeg_endsInR0 wf s).idempotent h
  | tcNot wf => exact (execTcNot_endsInR0 wf s).idempotent h
  | tcSext wf wt => exact (execTcSext_endsInR0 wf wt s).idempotent h
  | tcTrunc wf wt => exact (execTcTrunc_endsInR0 wf wt s).idempotent h
  | fcDecomp => exact execFcDecomp_idempotent h
  | fcComp => exact (execFcComp_endsInR0 s).idempotent h

/-- A command word run again from the state it left leaves that state, an illegal word's error included. -/
theorem execute_idempotent {v : Word} {s t : State} (h : execute v s = .next t) : execute v t = .next t := by
  rw [execute] at h ⊢
  cases hdec : decode v with
  | ok i => rw [hdec] at h; exact exec_idempotent h
  | error cause => rw [hdec] at h; obtain rfl := Host.Outcome.next.inj h; rfl

/-- Settles O27: the first write leaves the word in CMD, so the second stores nothing new and runs the word again. -/
theorem repeatedCommandWriteIsIdempotent : Obligations.RepeatedCommandWriteIsIdempotent := by
  intro s t v h
  obtain ⟨hcmd, -⟩ := hostWrite_cmd_frame h
  have hstore : { t with cmd := v } = t := by rw [← hcmd]
  rw [hostWrite_cmd] at h ⊢
  rw [hstore]
  exact execute_idempotent h

end Sys2Proof.Machine

namespace Sys2Proof.Machine

/-!
PROOF. The encoding statements (30_encoding): decode and encode agree both ways (R71 to R74), which words name a command
(R72, R79), what a word that names none raises (R78, R79), and the words the spec writes out (R81, R82).
-/

/-! A command's own word. -/

/-- Every well-formed command's word carries its opcode, and the row of that opcode selects it (R72, R73). -/
theorem encode_selected (i : Instr) : Laws.EncodedWord.Statement i := by
  cases i with
  | clrst => exact Laws.EncodedWord.clrst
  | rcMac r => exact Laws.EncodedWord.rcMac r
  | rcDecode r n => exact Laws.EncodedWord.rcDecode r n
  | rcEncode r => exact Laws.EncodedWord.rcEncode r
  | tcNeg wf => exact Laws.EncodedWord.tcNeg wf
  | tcNot wf => exact Laws.EncodedWord.tcNot wf
  | tcSext wf wt => exact Laws.EncodedWord.tcSext wf wt
  | tcTrunc wf wt => exact Laws.EncodedWord.tcTrunc wf wt
  | fcDecomp => exact Laws.EncodedWord.fcDecomp
  | fcComp => exact Laws.EncodedWord.fcComp

/-- The command that the row of `i`'s opcode reads back from `i`'s word is `i`: no field is dropped (R75 to R77). -/
theorem rowOf_command_encode {i : Instr} (hwf : i.WellFormed) {row : Row} (hrow : rowOf i.opcode = some row) :
    row.command (encode i) = i := by
  cases i with
  | rcDecode r n =>
    cases hrow
    obtain ⟨hn, hn'⟩ := (wellFormed_rcDecode r n).mp hwf
    simp [encode, decodeCount_encodeCount hn hn']
  | _ => cases hrow; simp [encode]

/-- Settles O1: the row of the command's opcode selects its word, and reads every field back. -/
theorem encodedCommandDecodesToItself : Obligations.EncodedCommandDecodesToItself := by
  intro i hwf
  obtain ⟨hop, row, hrow, hsel⟩ := encode_selected i hwf
  rw [decode_of_row (hop ▸ hrow), if_pos hsel, rowOf_command_encode hwf hrow]

/-! The bits a row fixes. -/

/-- Every MBZ bit of `v`'s opcode is zero in `v` (R72, R79). -/
def UnusedBitsZero (v : Word) : Prop := ∀ j, j < 32 → mbzBit (fieldOP v) j = true → v.getLsbD j = false

/-- No bit of OP is an MBZ bit (R71). -/
theorem mbzBit_of_lt_four (op : BitVec 4) {j : Nat} (h : j < 4) : mbzBit op j = false := by
  interval_cases j <;> rfl

/-- Bits 31:14 are MBZ for every opcode (R71). -/
theorem mbzBit_of_fourteen_le (op : BitVec 4) {j : Nat} (h : 14 ≤ j) (h' : j < 32) : mbzBit op j = true := by
  simp [mbzBit, h, h']

/-- A row's pattern is its opcode, zero-extended (R73). -/
theorem rowOf_pattern : ∀ op : BitVec 4, ∀ row ∈ rowOf op, row.pattern = op.setWidth 32 := by decide

/-- A row's mask is OP and the opcode's MBZ bits (R72, R73). -/
theorem rowOf_mask : ∀ op : BitVec 4, ∀ row ∈ rowOf op, ∀ j < 32,
    row.mask.getLsbD j = (decide (j < 4) || mbzBit op j) := by decide

theorem getLsbD_fieldOP (v : Word) (j : Nat) : (fieldOP v).getLsbD j = (decide (j < 4) && v.getLsbD j) := by
  simp [fieldOP]

/-- The row of a word's opcode selects the word exactly when its MBZ bits are zero (R73, R79). -/
theorem selected_iff_unusedBitsZero {v : Word} {row : Row} (h : rowOf (fieldOP v) = some row) :
    v &&& row.mask = row.pattern ↔ UnusedBitsZero v := by
  have hbit : ∀ j < 32, (v &&& row.mask).getLsbD j = row.pattern.getLsbD j ↔
      (mbzBit (fieldOP v) j = true → v.getLsbD j = false) := by
    intro j hj
    rw [BitVec.getLsbD_and, rowOf_mask _ _ h j hj, rowOf_pattern _ _ h]
    by_cases hj4 : j < 4
    · rw [mbzBit_of_lt_four _ hj4, BitVec.getLsbD_setWidth, getLsbD_fieldOP]
      simp [hj4, hj]
    · have hop : (fieldOP v).getLsbD j = false := BitVec.getLsbD_of_ge _ _ (by omega)
      cases mbzBit (fieldOP v) j <;> simp [hj4, hop]
  constructor
  · intro hsel j hj
    exact (hbit j hj).mp (congrArg (·.getLsbD j) hsel)
  · intro hzero
    exact BitVec.eq_of_getLsbD_eq fun j hj => (hbit j hj).mpr (hzero j hj)

/-- A word that decodes has a defined opcode (R78). -/
theorem opcode_lt_of_decode {v : Word} {i : Instr} (h : decode v = .ok i) : (fieldOP v).toNat < 10 := by
  by_contra hop
  rw [decode_of_reserved (by omega)] at h
  cases h

/-- A word that decodes has its MBZ bits zero (R79). -/
theorem unusedBitsZero_of_decode {v : Word} {i : Instr} (h : decode v = .ok i) : UnusedBitsZero v := by
  obtain ⟨row, hrow, hsel, -⟩ := decode_eq_ok h
  exact (selected_iff_unusedBitsZero hrow).mp hsel

/-- Settles O5: an opcode below 10 has a row, and the row selects the words whose MBZ bits are zero. -/
theorem wordNamesCommandWhenUnusedBitsAreZero : Obligations.WordNamesCommandWhenUnusedBitsAreZero := by
  intro v
  constructor
  · rintro ⟨i, h⟩
    exact ⟨opcode_lt_of_decode h, unusedBitsZero_of_decode h⟩
  · rintro ⟨hop, hzero⟩
    obtain ⟨row, hrow⟩ := rowOf_isSome hop
    exact ⟨row.command v, by rw [decode_of_row hrow, if_pos ((selected_iff_unusedBitsZero hrow).mpr hzero)]⟩

/-! A decoded word. -/

/-- The word of the command a row reads from `v`: the opcode, the fields of `v` the opcode uses, and zero in the others
(R72). Each field is used or MBZ as its lowest bit is. -/
theorem encode_rowOf_command {op : BitVec 4} {row : Row} (h : rowOf op = some row) (v : Word) :
    encode (row.command v) = cmdWord op
      (if mbzBit op 4 then 0 else fieldR v) (if mbzBit op 5 then 0 else fieldWF v)
      (if mbzBit op 7 then 0 else fieldWT v) (if mbzBit op 9 then 0 else fieldL v) := by
  obtain ⟨n, hn⟩ := op
  interval_cases n <;> cases h <;> simp [encode, mbzBit]

/-- The fields R, WF, WT and L of R71: lowest bit and number of bits. -/
def selectorFields : List (Nat × Nat) := [(4, 1), (5, 2), (7, 2), (9, 5)]

/-- A selector field is MBZ as a whole (R72). -/
theorem mbzBit_selectorFields : ∀ op : BitVec 4, ∀ f ∈ selectorFields, mbzBit op f.1 = true →
    ∀ k < f.2, f.1 + k < 32 ∧ mbzBit op (f.1 + k) = true := by decide

/-- Where every MBZ bit is zero, clearing a field the opcode does not use changes nothing. -/
theorem clear_unused_field {v : Word} (hzero : UnusedBitsZero v) {lo w : Nat} (hf : (lo, w) ∈ selectorFields) :
    (if mbzBit (fieldOP v) lo then 0 else v.extractLsb' lo w) = v.extractLsb' lo w := by
  split
  · rename_i hlo
    ext k hk
    obtain ⟨hlt, hmbz⟩ := mbzBit_selectorFields _ _ hf hlo k hk
    simpa using (hzero (lo + k) hlt hmbz).symm
  · rfl

/-- A decoded command's word is the word it was decoded from: a field the opcode uses is carried over, and every other
bit is zero in both (R72 to R74). -/
theorem encode_of_decode {v : Word} {i : Instr} (h : decode v = .ok i) : encode i = v := by
  have hzero : UnusedBitsZero v := unusedBitsZero_of_decode h
  obtain ⟨row, hrow, -, rfl⟩ := decode_eq_ok h
  have hR := clear_unused_field hzero (lo := 4) (w := 1) (by decide)
  have hWF := clear_unused_field hzero (lo := 5) (w := 2) (by decide)
  have hWT := clear_unused_field hzero (lo := 7) (w := 2) (by decide)
  have hL := clear_unused_field hzero (lo := 9) (w := 5) (by decide)
  calc encode (row.command v)
      = cmdWord (fieldOP v) (if mbzBit (fieldOP v) 4 then 0 else fieldR v)
          (if mbzBit (fieldOP v) 5 then 0 else fieldWF v) (if mbzBit (fieldOP v) 7 then 0 else fieldWT v)
          (if mbzBit (fieldOP v) 9 then 0 else fieldL v) := encode_rowOf_command hrow v
    _ = cmdWord (fieldOP v) (fieldR v) (fieldWF v) (fieldWT v) (fieldL v) := by
        rw [fieldR, fieldWF, fieldWT, fieldL, hR, hWF, hWT, hL]
    _ = v := cmdWord_of_fields v fun j hj hj' => hzero j hj' (mbzBit_of_fourteen_le _ hj hj')

/-- Settles O2, from the row that selects the word: its command's opcode and fields are the word's own. -/
theorem decodedWordIsItsCommandsEncoding : Obligations.DecodedWordIsItsCommandsEncoding := by
  intro v i h
  obtain ⟨hop, hwf⟩ := opcode_wellFormed_of_decode h
  exact ⟨hwf, encode_of_decode h, hop⟩

/-! A word that names no command. -/

/-- A CMD write of a word that names no command stores the word, raises IllegalCommand and does nothing else (R74). -/
theorem hostWrite_cmd_of_illegal {v : Word} {cause : IllegalCause} (h : decode v = .error cause) (s : State) :
    hostWrite 3 v s = .next { s with cmd := v, st := statusWord 4 true (fieldOP v) (illegalInfo cause) } := by
  rw [hostWrite_cmd, execute, h]
  rfl

/-- The bits above OP are all zero exactly when the word is below 16 (R78). -/
theorem extractLsb'_four_eq_zero (v : Word) : v.extractLsb' 4 28 = 0#28 ↔ v.toNat / 16 = 0 := by
  have hv := v.isLt
  rw [← BitVec.toNat_inj, BitVec.extractLsb'_toNat, Nat.shiftRight_eq_div_pow, BitVec.toNat_ofNat]
  omega

/-- The detail of a reserved opcode (R78, R202). -/
theorem illegalInfo_reservedOpcode (v : Word) :
    illegalInfo (.reservedOpcode (v.extractLsb' 4 28 != 0)) =
      0x01 ||| if v.toNat / 16 = 0 then 0x00 else 0x02 := by
  by_cases hv : v.toNat / 16 = 0
  · have hbits : v.extractLsb' 4 28 = 0#28 := (extractLsb'_four_eq_zero v).mpr hv
    rw [if_pos hv, hbits]
    rfl
  · have hbits : (v.extractLsb' 4 28 != 0) = true := bne_iff_ne.mpr fun h => hv ((extractLsb'_four_eq_zero v).mp h)
    rw [if_neg hv, hbits]
    rfl

/-- Settles O6: a reserved opcode has no row, so the word is illegal with the detail of its other bits. -/
theorem reservedOpcodeRaisesIllegalCommand : Obligations.ReservedOpcodeRaisesIllegalCommand := by
  intro s v hop
  rw [hostWrite_cmd_of_illegal (decode_of_reserved hop), illegalInfo_reservedOpcode]

/-- Settles O7: the row of the opcode does not select a word with an MBZ bit set. -/
theorem nonzeroMbzFieldRaisesIllegalCommand : Obligations.NonzeroMbzFieldRaisesIllegalCommand := by
  intro s v j hop hj hmbz hset
  obtain ⟨row, hrow⟩ := rowOf_isSome hop
  have hsel : ¬ v &&& row.mask = row.pattern := by
    intro hsel
    exact Bool.false_ne_true (((selected_iff_unusedBitsZero hrow).mp hsel j hj hmbz).symm.trans hset)
  have hdec : decode v = .error .mbzField := by rw [decode_of_row hrow, if_neg hsel]
  exact hostWrite_cmd_of_illegal hdec s

/-! The words the spec writes out. -/

/-- Settles O3: each word is evaluated. -/
theorem specWordsNameTheirCommands : Obligations.SpecWordsNameTheirCommands := by
  unfold Obligations.SpecWordsNameTheirCommands
  decide

/-- In RC_DECODE's word each digit past the first adds 0x200, one in field L (R82). -/
theorem cmdWord_opRcDecode (b : BitVec 1) (l : BitVec 5) :
    cmdWord opRcDecode b 0 0 l = cmdWord opRcDecode b 0 0 0 + BitVec.ofNat 32 (l.toNat * 0x200) := by
  revert b l
  decide

/-- A digit count the syntax lists gives L = n - 1 (R77, R81). -/
theorem asmCount_of_bounds {n : Nat} (h : 1 ≤ n ∧ n ≤ 32) :
    asmCount (some n) = some (encodeCount n) ∧ (encodeCount n).toNat = n - 1 := by
  refine ⟨if_pos h, ?_⟩
  rw [encodeCount, BitVec.toNat_ofNat]
  omega

/-- RC_DECODE as written with 1 to 32 digits is the word of one digit and 0x200 for each further one (R82). -/
theorem word_rcDecode (r : Option Nat) {n : Nat} (hn : 1 ≤ n ∧ n ≤ 32) : (AsmCommand.rcDecode r (some n)).word =
    (asmRadix r).map fun b => cmdWord opRcDecode b 0 0 0 + BitVec.ofNat 32 ((n - 1) * 0x200) := by
  obtain ⟨hcount, hl⟩ := asmCount_of_bounds hn
  rw [AsmCommand.word, hcount, ← hl]
  cases asmRadix r with
  | none => rfl
  | some b => exact congrArg some (cmdWord_opRcDecode b _)

/-- Settles O8: RC_DECODE's rows by their count, the others one by one. -/
theorem pseudoCommandsHaveTheTablesWords : Obligations.PseudoCommandsHaveTheTablesWords := by
  intro p hcount
  cases p with
  | rcDec2 n => exact word_rcDecode _ (hcount n (.inl rfl))
  | rcDec10 n => exact word_rcDecode _ (hcount n (.inr rfl))
  | _ => rfl

end Sys2Proof.Machine

namespace Sys2Proof.Machine

/-!
PROOF. The radix converter statements (40_radix_converter): RC_MAC, RC_DECODE and RC_ENCODE (R103 to R105), their round
trips and the chain of RC_MAC steps (R106, R107), and where their values are exact (R108, R109).
-/

/-! The fields of the three command words. -/

/-- Field R as bit 4 of the word (R71, R75). -/
theorem decodeRadix_fieldR (v : Word) : decodeRadix (fieldR v) = if v.getLsbD 4 then .ten else .two := by
  have hbit : ∀ b : BitVec 1, decodeRadix b = if b.getLsbD 0 then .ten else .two := by decide
  rw [hbit, fieldR, BitVec.getLsbD_extractLsb']
  simp

/-- Field L as bits 9 to 13 of the word (R71, R77). -/
theorem decodeCount_fieldL (v : Word) : decodeCount (fieldL v) = v.toNat / 512 % 32 + 1 := by
  exact congrArg (· + 1) (toNat_extractLsb' v 9 5)

/-! RC_MAC. -/

/-- RC_MAC with a valid digit (R103). -/
theorem exec_rcMac_of_lt {r : Radix} {s : State} (h : s.b.toNat < radixValue r) :
    exec (.rcMac r) s = .next { s with
      r0 := hornerStep (radixValue r) s.a s.b.toNat, st := successStatus opRcMac s.st } := by
  rw [exec_rcMac, execRcMac, if_neg (Nat.not_le.mpr h), finish_setR0]

/-- RC_MAC with a digit that is not below the radix (R103). -/
theorem exec_rcMac_of_le {r : Radix} {s : State} (h : radixValue r ≤ s.b.toNat) :
    exec (.rcMac r) s = .next { s with st := raisedStatus opRcMac .invalidDigit 0 } := by
  rw [exec_rcMac, execRcMac, if_pos h, finish_raise]

/-- Settles O30: the row of opcode 1, and the command by whether B is below the radix. -/
theorem rcMacIsOneHornerStep : Obligations.RcMacIsOneHornerStep :=
  ⟨encodedBy_of_row rfl rfl rfl (fun v => congrArg Instr.rcMac (decodeRadix_fieldR v)) rfl,
    fun _ _ => ⟨exec_rcMac_of_lt, exec_rcMac_of_le⟩⟩

/-! RC_DECODE. -/

/-- The digit sequence is valid exactly when each of its cells is (R102). -/
theorem forall_mem_digitSeq {s : State} {n : Nat} {p : Nat → Prop} :
    (∀ d ∈ s.digitSeq n, p d) ↔ ∀ i, i < n → p (s.digit i).toNat := by
  simp [State.digitSeq]

/-- Only the same first `n` cells give the same digit sequence. -/
theorem digit_eq_of_digitSeq_eq {s t : State} {n : Nat} (h : s.digitSeq n = t.digitSeq n) {i : Nat} (hi : i < n) :
    s.digit i = t.digit i :=
  BitVec.eq_of_toNat_eq (List.map_inj_left.mp h i (List.mem_range.mpr hi))

/-- The number that the first `n` cells write in radix `b`, as the sum of R108. -/
theorem ofDigits_reverse_digitSeq (b : Nat) (s : State) (n : Nat) :
    Nat.ofDigits b (s.digitSeq n).reverse = ∑ i ∈ Finset.range n, b ^ (n - 1 - i) * (s.digit i).toNat := by
  induction n with
  | zero => rfl
  | succ n ih =>
    have hweight : ∀ i ∈ Finset.range n,
        b * (b ^ (n - 1 - i) * (s.digit i).toNat) = b ^ (n + 1 - 1 - i) * (s.digit i).toNat := by
      intro i hi
      have hi' := Finset.mem_range.mp hi
      rw [← mul_assoc, ← pow_succ', show n - 1 - i + 1 = n + 1 - 1 - i by omega]
    rw [digitSeq_succ, List.reverse_concat', Nat.ofDigits_cons, ih, Finset.mul_sum, Finset.sum_congr rfl hweight,
      Finset.sum_range_succ, Nat.add_sub_cancel, Nat.sub_self, pow_zero, one_mul, add_comm]

/-- RC_DECODE of valid digits (R104). -/
theorem exec_rcDecode_of_valid {r : Radix} {n : Nat} {s : State}
    (h : ∀ i, i < n → (s.digit i).toNat < radixValue r) :
    exec (.rcDecode r n) s = .next { s with
      r0 := horner (radixValue r) (s.digitSeq n), st := successStatus opRcDecode s.st } := by
  have hvalid : firstInvalid (radixValue r) (s.digitSeq n) = none :=
    firstInvalid_eq_none.mpr (forall_mem_digitSeq.mpr h)
  rw [exec_rcDecode, execRcDecode, hvalid]
  exact finish_setR0 _ _ _

/-- RC_DECODE at its first digit that is not below the radix (R104). -/
theorem exec_rcDecode_of_invalid {r : Radix} {n : Nat} {s : State} {i : Nat} (hi : i < n)
    (hbad : radixValue r ≤ (s.digit i).toNat) (hfirst : ∀ j, j < i → (s.digit j).toNat < radixValue r) :
    exec (.rcDecode r n) s = .next { s with st := raisedStatus opRcDecode .invalidDigit (BitVec.ofNat 8 i) } := by
  have hfound : firstInvalid (radixValue r) (s.digitSeq n) = some i := by
    refine firstInvalid_eq_some.mpr ⟨(digitSeq_length s n).symm ▸ hi, ?_⟩
    simpa only [digitSeq_getElem] using ⟨hbad, hfirst⟩
  rw [exec_rcDecode, execRcDecode, hfound]
  exact finish_raise _ _ _ _

/-- Horner's value of the first `n` cells is the sum of R108, reduced once. -/
theorem horner_digitSeq (b : Nat) (s : State) (n : Nat) :
    horner b (s.digitSeq n) = BitVec.ofNat 32 (∑ i ∈ Finset.range n, b ^ (n - 1 - i) * (s.digit i).toNat) := by
  rw [horner_eq_ofDigits, ofDigits_reverse_digitSeq]

/-- Settles O31: the row of opcode 2, and the command by whether every digit is below the radix. -/
theorem rcDecodeIsHornersValueOrFirstBadDigit : Obligations.RcDecodeIsHornersValueOrFirstBadDigit := by
  refine ⟨encodedBy_of_row rfl rfl rfl (fun v => ?_) rfl, fun r n s _ _ => ⟨fun hvalid => ?_, fun i => ?_⟩⟩
  · exact congrArg₂ Instr.rcDecode (decodeRadix_fieldR v) (decodeCount_fieldL v)
  · rw [← horner_digitSeq]
    exact exec_rcDecode_of_valid hvalid
  · exact exec_rcDecode_of_invalid

/-! Where the values are exact. -/

/-- A number below 2^32 is unchanged by a register (R108). -/
theorem toNat_ofNat_of_lt {x : Nat} (h : x < 2 ^ 32) : (BitVec.ofNat 32 x).toNat = x := by
  rw [BitVec.toNat_ofNat, Nat.mod_eq_of_lt h]

/-- Settles O37: each result is a number reduced mod 2^32, once. -/
theorem hornerResultsAreExactBelowTheWrap : Obligations.HornerResultsAreExactBelowTheWrap := by
  refine fun r s => ⟨fun hdigit hlt => ⟨_, exec_rcMac_of_lt hdigit, toNat_ofNat_of_lt hlt⟩,
    fun n _ _ hvalid hlt => ⟨_, exec_rcDecode_of_valid hvalid, ?_⟩⟩
  rw [horner_digitSeq, toNat_ofNat_of_lt hlt]

/-! The chain of RC_MAC steps. -/

/-- A valid first digit takes the chain one Horner step further: the new value is in R0 and in A (R106). -/
theorem macChain_cons {r : Radix} {d : Nat} (hd : d < radixValue r) (ds : List Nat) (s : State) :
    macChain r (d :: ds) s = macChain r ds { s with
      a := hornerStep (radixValue r) s.a d, b := BitVec.ofNat 32 d
      r0 := hornerStep (radixValue r) s.a d, st := successStatus opRcMac s.st } := by
  have hr := radixValue_le_ten r
  have hb : (BitVec.ofNat 32 d).toNat = d := toNat_ofNat_of_lt (by omega)
  rw [macChain, exec_rcMac_of_lt (by rwa [hb]), hb]

/-- A chain over valid digits, from a state that an RC_MAC step and the copy of R0 into A have left, ends in such a state
and with Horner's value. -/
theorem macChain_of_valid {r : Radix} {ds : List Nat} (hds : ∀ d ∈ ds, d < radixValue r) {s : State}
    (hcopy : s.r0 = s.a) (herr : stErr s.st = 0) :
    ∃ t, macChain r ds s = .next t ∧ t.r0 = ds.foldl (hornerStep (radixValue r)) s.a ∧ stErr t.st = 0 := by
  induction ds generalizing s with
  | nil => exact ⟨s, rfl, hcopy, herr⟩
  | cons d ds ih =>
    obtain ⟨hd, hds⟩ := List.forall_mem_cons.mp hds
    rw [macChain_cons hd]
    exact ih hds rfl (stErr_successStatus _ _)

/-- A chain of one valid digit or more, from any state. -/
theorem macChain_cons_of_valid {r : Radix} {d : Nat} {ds : List Nat} (h : ∀ e ∈ d :: ds, e < radixValue r) (s : State) :
    ∃ t, macChain r (d :: ds) s = .next t ∧ t.r0 = (d :: ds).foldl (hornerStep (radixValue r)) s.a ∧
      stErr t.st = 0 := by
  obtain ⟨hd, hds⟩ := List.forall_mem_cons.mp h
  rw [macChain_cons hd]
  exact macChain_of_valid hds rfl (stErr_successStatus _ _)

/-- Settles O36: both accumulate the same Horner steps from 0. -/
theorem rcMacChainGivesRcDecodesResult : Obligations.RcMacChainGivesRcDecodesResult := by
  intro r n s hn _ hvalid
  have hds : ∀ d ∈ s.digitSeq n, d < radixValue r := forall_mem_digitSeq.mpr hvalid
  obtain ⟨d, ds, hseq⟩ : ∃ d ds, s.digitSeq n = d :: ds :=
    List.exists_cons_of_length_pos (by rwa [digitSeq_length])
  obtain ⟨t, hchain, hr0, herr⟩ := macChain_cons_of_valid (hseq ▸ hds) { s with a := 0 }
  rw [← hseq] at hchain hr0
  exact ⟨t, _, hchain, exec_rcDecode_of_valid hvalid, hr0, herr⟩

/-! The digits RC_ENCODE writes. -/

section
variable {b : Nat} (hb : 2 ≤ b) (v : Word)
include hb

/-- R105's digits, least significant first: every place past the last digit reads 0 too. -/
theorem getD_reverse_encodeDigits (j : Nat) : (encodeDigits b v).reverse.getD j 0 = v.toNat / b ^ j % b := by
  rw [encodeDigits_eq hb]
  split
  · rename_i hv
    cases j <;> simp [hv]
  · rw [List.reverse_reverse, Nat.getD_digits _ _ hb]

/-- Digit `i` is the one of weight b^(k-1-i), k the digit count (R105). -/
theorem getD_encodeDigits {i : Nat} (hi : i < (encodeDigits b v).length) :
    (encodeDigits b v).getD i 0 = v.toNat / b ^ ((encodeDigits b v).length - 1 - i) % b := by
  rw [← getD_reverse_encodeDigits hb, List.getD_eq_getElem _ _ hi,
    List.getD_eq_getElem _ _ (by rw [List.length_reverse]; omega), List.getElem_reverse]
  congr 1
  omega

/-- Every digit is valid, the zeros past the last one included. -/
theorem getD_encodeDigits_lt (i : Nat) : (encodeDigits b v).getD i 0 < b := by
  by_cases hi : i < (encodeDigits b v).length
  · rw [getD_encodeDigits hb v hi]
    exact Nat.mod_lt _ (by omega)
  · rw [List.getD_eq_default _ _ (by omega)]
    omega

/-- The digits are those of the number (R107). -/
theorem ofDigits_reverse_encodeDigits : Nat.ofDigits b (encodeDigits b v).reverse = v.toNat := by
  rw [encodeDigits_eq hb]
  split
  · rename_i hv
    simp [hv]
  · rw [List.reverse_reverse, Nat.ofDigits_digits]

/-- Zero has one digit (R109). -/
theorem length_encodeDigits_of_zero (hv : v.toNat = 0) : (encodeDigits b v).length = 1 := by
  rw [encodeDigits_eq hb, if_pos hv]
  rfl

/-- The digit count of another number is the least k with b^k above it (R109). -/
theorem lt_pow_iff_length_encodeDigits_le (hv : v.toNat ≠ 0) (m : Nat) :
    v.toNat < b ^ m ↔ (encodeDigits b v).length ≤ m := by
  rw [encodeDigits_eq hb, if_neg hv, List.length_reverse, Nat.digits_length_le_iff hb]

/-- The loop of R105 runs at least once. -/
theorem length_encodeDigits_pos : 1 ≤ (encodeDigits b v).length := by
  by_cases hv : v.toNat = 0
  · exact (length_encodeDigits_of_zero hb v hv).ge
  · by_contra hlen
    have hlt : v.toNat < b ^ 0 := (lt_pow_iff_length_encodeDigits_le hb v hv 0).mpr (by omega)
    rw [pow_zero] at hlt
    omega

/-- A number below b^m, m at least 1, has at most m digits; so has 0. -/
theorem length_encodeDigits_le {m : Nat} (hm : 1 ≤ m) (h : v.toNat < b ^ m) : (encodeDigits b v).length ≤ m := by
  by_cases hv : v.toNat = 0
  · rwa [length_encodeDigits_of_zero hb v hv]
  · exact (lt_pow_iff_length_encodeDigits_le hb v hv m).mp h

/-- Every 32-bit number fits the digit buffer (R109). -/
theorem length_encodeDigits_le_32 : (encodeDigits b v).length ≤ 32 :=
  length_encodeDigits_le hb v (by decide) (v.isLt.trans_le (Nat.pow_le_pow_left hb 32))

/-- Only 0 starts with a zero (R109). -/
theorem getD_zero_encodeDigits_eq_zero : (encodeDigits b v).getD 0 0 = 0 ↔ v.toNat = 0 := by
  rw [encodeDigits_eq hb]
  split
  · rename_i hv
    simp [hv]
  · rename_i hv
    have hlast := Nat.getLast_digit_ne_zero b hv
    have hfirst : (Nat.digits b v.toNat).reverse.getD 0 0 =
        (Nat.digits b v.toNat).getLast (Nat.digits_ne_nil_iff_ne_zero.mpr hv) := by
      rw [List.getD_eq_getElem _ _ (by rwa [List.length_reverse, List.length_pos_iff, Nat.digits_ne_nil_iff_ne_zero]), List.getElem_reverse,
        List.getLast_eq_getElem]
      rfl
    rw [hfirst]
    exact iff_of_false hlast hv

/-- Re-encoding the number that valid digits write gives these digits exactly when they have no leading zero or are one
digit (R107). -/
theorem encodeDigits_eq_self_iff {ds : List Nat} (hne : ds ≠ []) (hds : ∀ d ∈ ds, d < b)
    (hv : v.toNat = Nat.ofDigits b ds.reverse) :
    encodeDigits b v = ds ↔ ds.getD 0 0 ≠ 0 ∨ ds.length = 1 := by
  constructor
  · intro h
    by_cases hfirst : ds.getD 0 0 = 0
    · rw [← h, getD_zero_encodeDigits_eq_zero hb] at hfirst
      exact .inr (h ▸ length_encodeDigits_of_zero hb v hfirst)
    · exact .inl hfirst
  · intro h
    obtain ⟨d, ds, rfl⟩ := List.exists_cons_of_ne_nil hne
    rw [encodeDigits_eq hb]
    by_cases hd : d = 0
    · subst hd
      obtain rfl : ds = [] := by simpa using h
      rw [if_pos (hv.trans Nat.ofDigits_singleton)]
    · have hdigits : Nat.digits b v.toNat = (d :: ds).reverse := by
        rw [hv, Nat.digits_ofDigits b hb _ (fun d hmem => hds d (List.mem_reverse.mp hmem)) (by simpa using hd)]
      have hv0 : v.toNat ≠ 0 := Nat.digits_ne_nil_iff_ne_zero.mp (by rw [hdigits]; simp)
      rw [if_neg hv0, hdigits, List.reverse_reverse]

end

/-! RC_ENCODE. -/

/-- What RC_ENCODE leaves (R105): the digit count, the digits with zeros past them, and everything else but ST. -/
structure RcEncodeResult (r : Radix) (s t : State) : Prop where
  count : t.r0.toNat = (encodeDigits (radixValue r) s.a).length
  digit : ∀ i, i < 32 → (t.digit i).toNat = (encodeDigits (radixValue r) s.a).getD i 0
  frame : t = { s with
    r0 := t.r0, dig0 := t.dig0, dig1 := t.dig1, dig2 := t.dig2, dig3 := t.dig3, st := successStatus opRcEncode s.st }

theorem rcEncodeResult_of_exec {r : Radix} {s t : State} (h : exec (.rcEncode r) s = .next t) :
    RcEncodeResult r s t := by
  have hb := two_le_radixValue r
  rw [exec_rcEncode, execRcEncode, finish_setDigits_setR0] at h
  obtain rfl := Host.Outcome.next.inj h
  refine ⟨?_, fun i hi => ?_, rfl⟩
  · have hlen := length_encodeDigits_le_32 hb s.a
    exact toNat_ofNat_of_lt (by omega)
  · have hlt := getD_encodeDigits_lt hb s.a i
    have hten := radixValue_le_ten r
    calc _ = (BitVec.ofNat 4 ((encodeDigits (radixValue r) s.a).getD i 0)).toNat :=
            congrArg BitVec.toNat (digit_setDigits_pack s _ hi)
      _ = (encodeDigits (radixValue r) s.a).getD i 0 := by
            rw [BitVec.toNat_ofNat, Nat.mod_eq_of_lt (by omega)]

/-- RC_ENCODE accepts every A (R105). -/
theorem exec_rcEncode_answers (r : Radix) (s : State) : ∃ t, exec (.rcEncode r) s = .next t ∧ RcEncodeResult r s t := by
  obtain ⟨t, ht, -⟩ := exec_withinWrites (.rcEncode r) s
  exact ⟨t, ht, rcEncodeResult_of_exec ht⟩

section
variable {r : Radix} {s t : State} (h : RcEncodeResult r s t)
include h

/-- The count RC_ENCODE gives is one that RC_DECODE takes (R77, R109). -/
theorem RcEncodeResult.count_bounds : 1 ≤ t.r0.toNat ∧ t.r0.toNat ≤ 32 := by
  rw [h.count]
  exact ⟨length_encodeDigits_pos (two_le_radixValue r) s.a, length_encodeDigits_le_32 (two_le_radixValue r) s.a⟩

/-- The buffer read with the count is the digit sequence. -/
theorem RcEncodeResult.digitSeq_count : t.digitSeq t.r0.toNat = encodeDigits (radixValue r) s.a := by
  have hbounds := h.count_bounds
  apply List.ext_getElem
  · rw [digitSeq_length, h.count]
  · intro i hi hi'
    rw [digitSeq_length] at hi
    rw [digitSeq_getElem, h.digit i (by omega), List.getD_eq_getElem _ _ hi']

/-- The count and the digits read back as those of another state exactly when the digit sequences agree. -/
theorem RcEncodeResult.count_digits_eq_iff {n : Nat} {s' : State} :
    (t.r0.toNat = n ∧ ∀ i, i < n → t.digit i = s'.digit i) ↔ encodeDigits (radixValue r) s.a = s'.digitSeq n := by
  rw [← h.digitSeq_count]
  constructor
  · rintro ⟨rfl, hdigits⟩
    exact digitSeq_congr hdigits
  · intro hseq
    obtain rfl : t.r0.toNat = n := by simpa only [digitSeq_length] using congrArg List.length hseq
    exact ⟨rfl, fun i hi => digit_eq_of_digitSeq_eq hseq hi⟩

end

/-- Settles O32: k is the length of the digit sequence, and cell i holds its i-th digit. -/
theorem rcEncodeWritesTheDigitsOfA : Obligations.RcEncodeWritesTheDigitsOfA := by
  refine ⟨encodedBy_of_row rfl rfl rfl (fun v => congrArg Instr.rcEncode (decodeRadix_fieldR v)) rfl, fun r s => ?_⟩
  have hb := two_le_radixValue r
  obtain ⟨t, hexec, ht⟩ := exec_rcEncode_answers r s
  obtain ⟨hpos, hle⟩ := ht.count_bounds
  refine ⟨t.r0.toNat, t, hpos, hle, fun ha => ?_, fun ha => ?_, hexec, fun i hi => ?_, ?_⟩
  · rw [ht.count, length_encodeDigits_of_zero hb s.a ha]
  · have hleast := lt_pow_iff_length_encodeDigits_le hb s.a ha
    rw [← ht.count] at hleast
    exact ⟨Nat.not_lt.mp fun hlt => absurd ((hleast _).mp hlt) (by omega), (hleast _).mpr le_rfl⟩
  · rw [ht.digit i hi, ht.count]
    split
    · rename_i hik
      exact getD_encodeDigits hb s.a hik
    · rename_i hik
      exact List.getD_eq_default _ _ (Nat.not_lt.mp hik)
  · rw [BitVec.ofNat_toNat, BitVec.setWidth_eq]
    exact ht.frame

/-- Settles O33: the laws of the digit sequence's length and first digit, and 2^32 ≤ 10^10. -/
theorem encodedDigitCountIsLeastThatFits : Obligations.EncodedDigitCountIsLeastThatFits := by
  intro r s t hexec
  have hb := two_le_radixValue r
  have ht := rcEncodeResult_of_exec hexec
  rw [ht.count]
  refine ⟨length_encodeDigits_of_zero hb s.a, fun ha => lt_pow_iff_length_encodeDigits_le hb s.a (by omega), ?_,
    ?_, fun _ => length_encodeDigits_le_32 hb s.a, ?_⟩
  · rw [← getD_zero_encodeDigits_eq_zero hb, ← ht.digit 0 (by decide), ← BitVec.toNat_inj]
    rfl
  · rintro hlt rfl
    exact length_encodeDigits_le hb s.a (by decide) hlt
  · rintro rfl
    exact length_encodeDigits_le hb s.a (by decide) (s.a.isLt.trans (by decide))

/-- Settles O34: RC_DECODE reads back the digit sequence of A, whose value is A. -/
theorem encodeThenDecodeGivesTheNumberBack : Obligations.EncodeThenDecodeGivesTheNumberBack := by
  intro r s
  have hb := two_le_radixValue r
  obtain ⟨t, hexec, ht⟩ := exec_rcEncode_answers r s
  obtain ⟨hpos, hle⟩ := ht.count_bounds
  have hvalid : ∀ i, i < t.r0.toNat → (t.digit i).toNat < radixValue r := by
    intro i hi
    rw [ht.digit i (by omega)]
    exact getD_encodeDigits_lt hb s.a i
  refine ⟨t, _, hexec, hpos, hle, exec_rcDecode_of_valid hvalid, ?_, stErr_successStatus _ _⟩
  rw [ht.digitSeq_count, horner_eq_ofDigits, ofDigits_reverse_encodeDigits hb, BitVec.ofNat_toNat,
    BitVec.setWidth_eq]

/-- Settles O35: R0 holds the exact number the digits write, and RC_ENCODE gives its digit sequence. -/
theorem decodeThenEncodeGivesDigitsBackWithoutLeadingZero :
    Obligations.DecodeThenEncodeGivesDigitsBackWithoutLeadingZero := by
  intro r n s t u hn _ hvalid hlt hdec henc
  have hr0 : t.r0 = horner (radixValue r) (s.digitSeq n) := by
    obtain rfl := Host.Outcome.next.inj ((exec_rcDecode_of_valid hvalid).symm.trans hdec)
    rfl
  have hvalue : t.r0.toNat = Nat.ofDigits (radixValue r) (s.digitSeq n).reverse := by
    rw [hr0, horner_digitSeq, toNat_ofNat_of_lt hlt, ofDigits_reverse_digitSeq]
  have hne : s.digitSeq n ≠ [] := List.ne_nil_of_length_pos (by rwa [digitSeq_length])
  have hfirst : (s.digitSeq n).getD 0 0 = (s.digit 0).toNat := by
    rw [List.getD_eq_getElem _ _ (by rwa [digitSeq_length]), digitSeq_getElem]
  rw [(rcEncodeResult_of_exec henc).count_digits_eq_iff,
    encodeDigits_eq_self_iff (two_le_radixValue r) t.r0 hne (forall_mem_digitSeq.mpr hvalid) hvalue,
    digitSeq_length, hfirst, ne_eq, ne_eq, ← BitVec.toNat_inj]
  rfl

end Sys2Proof.Machine

namespace Sys2Proof.Machine

/-!
PROOF. The two's-complement statements (41_twos_complement): TC_NEG, TC_NOT, TC_SEXT and TC_TRUNC (R132 to R135), the
laws of negation and complement (R136, R137), of extension and truncation (R138), and the rendering function (R139).
-/

/-! Width-w values in a register. -/

/-- Every width is that of some bits of a register (R13). -/
theorem width_bounds {c : WidthCode} {w : Nat} (h : widthOf c = some w) : 1 ≤ w ∧ w ≤ 32 := by
  cases c <;> cases h <;> decide

/-- The operand as a number: A reduced to the width (R131). -/
theorem toNat_operandA (s : State) (w : Nat) : (s.operandA w).toNat = s.a.toNat % 2 ^ w := BitVec.toNat_setWidth w s.a

/-- A width-w result as the number it is in a register (R131). -/
theorem zext32_eq_ofNat {w : Nat} (b : BitVec w) : zext32 b = BitVec.ofNat 32 b.toNat := (BitVec.ofNat_toNat 32 b).symm

section
variable {w : Nat} (hw : w ≤ 32) (b : BitVec w)
include hw

theorem toNat_zext32 : (zext32 b).toNat = b.toNat := BitVec.toNat_setWidth_of_le hw

/-- The low w bits of a width-w result are the result (R131). -/
theorem setWidth_zext32 : (zext32 b).setWidth w = b := by
  rw [zext32, BitVec.setWidth_setWidth_of_le b hw, BitVec.setWidth_eq]

/-- A width-w result copied into A is the next command's width-w operand. -/
theorem operandA_zext32 (s : State) : ({ s with a := zext32 b } : State).operandA w = b := setWidth_zext32 hw b

end

/-- The negation of R132 is the negation of `BitVec`. -/
theorem negate_eq_neg {w : Nat} (a : BitVec w) : negate a = -a := (BitVec.neg_eq_not_add a).symm

/-- A negative operand gains the ones between the two widths, another one gains zeros (R134). -/
theorem toNat_signExtend_of_le {f t : Nat} (h : f ≤ t) (a : BitVec f) :
    (a.signExtend t).toNat = if a.toNat < 2 ^ (f - 1) then a.toNat else (2 ^ t - 2 ^ f) + a.toNat := by
  rw [BitVec.toNat_signExtend, BitVec.toNat_setWidth_of_le h, BitVec.msb_eq_decide]
  by_cases hneg : 2 ^ (f - 1) ≤ a.toNat
  · rw [if_pos (decide_eq_true hneg), if_neg (Nat.not_lt.mpr hneg), Nat.add_comm]
  · rw [if_neg (by simpa using hneg), if_pos (Nat.not_le.mp hneg), Nat.add_zero]

/-- Extension adds bits above the operand's only (R134). -/
theorem setWidth_signExtend_of_le {f t : Nat} (h : f ≤ t) (a : BitVec f) : (a.signExtend t).setWidth f = a := by
  ext i hi
  rw [BitVec.getElem_setWidth, BitVec.getLsbD_signExtend, if_pos hi, decide_eq_true (by omega), Bool.true_and,
    BitVec.getLsbD_eq_getElem]

/-! What the width codes of a two-width command give. -/

theorem widthPair_of_widths {wf wt : WidthCode} {f t : Nat} (hf : widthOf wf = some f) (ht : widthOf wt = some t) :
    widthPair wf wt = .ok (f, t) := by
  rw [widthPair, hf, ht]

theorem widthPair_of_reserved {wf wt : WidthCode} (h : wf = .reserved ∨ wt = .reserved) :
    widthPair wf wt = .error (.invalidWidth, widthCodeMask wf wt) := by
  obtain ⟨f, t, hf, ht, -⟩ | ⟨-, hpair⟩ := widthPair_eq wf wt
  · obtain rfl | rfl := h
    · cases hf
    · cases ht
  · exact hpair

/-- The detail of the reserved codes as a sum: WF counts 1, WT counts 2 (R134, R202). -/
theorem widthCodeMask_eq_ofNat (wf wt : WidthCode) : widthCodeMask wf wt =
    BitVec.ofNat 8 ((if wf = .reserved then 1 else 0) + (if wt = .reserved then 2 else 0)) := by
  cases wf <;> cases wt <;> rfl

/-! The ends of the four commands. -/

section
variable {wf : WidthCode} {w : Nat} (hw : widthOf wf = some w) (s : State)
include hw

/-- TC_NEG at a code that names a width (R132). -/
theorem exec_tcNeg_of_width : exec (.tcNeg wf) s = .next { s with
    r0 := zext32 (negate (s.operandA w)), st := successStatus opTcNeg s.st } := by
  rw [exec_tcNeg, execTcNeg, hw]
  exact finish_setR0 _ _ _

/-- TC_NOT at a code that names a width (R133). -/
theorem exec_tcNot_of_width : exec (.tcNot wf) s = .next { s with
    r0 := zext32 (~~~s.operandA w), st := successStatus opTcNot s.st } := by
  rw [exec_tcNot, execTcNot, hw]
  exact finish_setR0 _ _ _

end

section
variable {wf wt : WidthCode} (h : wf = .reserved ∨ wt = .reserved) (s : State)
include h

/-- TC_SEXT with a reserved code, whatever the other one (R134). -/
theorem exec_tcSext_of_reserved : exec (.tcSext wf wt) s = .next { s with
    st := raisedStatus opTcSext .invalidWidth (widthCodeMask wf wt) } := by
  rw [exec_tcSext, execTcSext, widthPair_of_reserved h]
  exact finish_raise _ _ _ _

/-- TC_TRUNC with a reserved code, whatever the other one (R135). -/
theorem exec_tcTrunc_of_reserved : exec (.tcTrunc wf wt) s = .next { s with
    st := raisedStatus opTcTrunc .invalidWidth (widthCodeMask wf wt) } := by
  rw [exec_tcTrunc, execTcTrunc, widthPair_of_reserved h]
  exact finish_raise _ _ _ _

end

section
variable {wf wt : WidthCode} {f t : Nat} (hf : widthOf wf = some f) (ht : widthOf wt = some t) (s : State)
include hf ht

/-- TC_SEXT to the same or a larger width (R134). -/
theorem exec_tcSext_of_le (h : f ≤ t) : exec (.tcSext wf wt) s = .next { s with
    r0 := zext32 ((s.operandA f).signExtend t), st := successStatus opTcSext s.st } := by
  rw [exec_tcSext, execTcSext, widthPair_of_widths hf ht]
  simp only [if_neg (Nat.not_lt.mpr h), finish_setR0]

/-- TC_SEXT asked to narrow (R134). -/
theorem exec_tcSext_of_lt (h : t < f) :
    exec (.tcSext wf wt) s = .next { s with st := raisedStatus opTcSext .invalidWidth 0x04 } := by
  rw [exec_tcSext, execTcSext, widthPair_of_widths hf ht]
  simp only [if_pos h, finish_raise]

/-- TC_TRUNC to the same or a smaller width (R135). -/
theorem exec_tcTrunc_of_le (h : t ≤ f) : exec (.tcTrunc wf wt) s = .next { s with
    r0 := zext32 (s.operandA t), st := successStatus opTcTrunc s.st } := by
  rw [exec_tcTrunc, execTcTrunc, widthPair_of_widths hf ht]
  simp only [if_neg (Nat.not_lt.mpr h), finish_setR0]

/-- TC_TRUNC asked to widen (R135). -/
theorem exec_tcTrunc_of_lt (h : f < t) :
    exec (.tcTrunc wf wt) s = .next { s with st := raisedStatus opTcTrunc .invalidWidth 0x04 } := by
  rw [exec_tcTrunc, execTcTrunc, widthPair_of_widths hf ht]
  simp only [if_pos h, finish_raise]

end

/-- Settles O38: the row of opcode 4, and `BitVec`'s negation as a number. -/
theorem tcNegIsTwosComplementNegation : Obligations.TcNegIsTwosComplementNegation := by
  refine ⟨encodedBy_of_row rfl rfl rfl (fun _ => rfl) rfl, fun s => ⟨finish_raise _ _ _ _, fun wf w hmem => ?_⟩⟩
  rw [exec_tcNeg_of_width ((widthOf_eq_some wf w).mpr hmem), zext32_eq_ofNat, negate_eq_neg, BitVec.toNat_neg,
    toNat_operandA]

/-- Settles O39: the row of opcode 5, and the complement as a number. -/
theorem tcNotIsComplement : Obligations.TcNotIsComplement := by
  refine ⟨encodedBy_of_row rfl rfl rfl (fun _ => rfl) rfl, fun s => ⟨finish_raise _ _ _ _, fun wf w hmem => ?_⟩⟩
  rw [exec_tcNot_of_width ((widthOf_eq_some wf w).mpr hmem), zext32_eq_ofNat, BitVec.toNat_not, toNat_operandA]

/-- Settles O40: the row of opcode 6, and the command by its codes and the order of its widths. -/
theorem tcSextExtendsTheSign : Obligations.TcSextExtendsTheSign := by
  refine ⟨encodedBy_of_row rfl rfl rfl (fun _ => rfl) rfl, fun wf wt s => ⟨fun hres => ?_, fun f t hf ht => ?_⟩⟩
  · rw [← widthCodeMask_eq_ofNat]
    exact exec_tcSext_of_reserved hres s
  · rw [← widthOf_eq_some] at hf ht
    refine ⟨exec_tcSext_of_lt hf ht s, fun hle => ?_⟩
    rw [exec_tcSext_of_le hf ht s hle, zext32_eq_ofNat, toNat_signExtend_of_le hle, toNat_operandA]

/-- Settles O41: the row of opcode 7, and the command by its codes and the order of its widths. -/
theorem tcTruncKeepsTheLowBits : Obligations.TcTruncKeepsTheLowBits := by
  refine ⟨encodedBy_of_row rfl rfl rfl (fun _ => rfl) rfl, fun wf wt s => ⟨fun hres => ?_, fun f t hf ht => ?_⟩⟩
  · rw [← widthCodeMask_eq_ofNat]
    exact exec_tcTrunc_of_reserved hres s
  · rw [← widthOf_eq_some] at hf ht
    refine ⟨exec_tcTrunc_of_lt hf ht s, fun hle => ?_⟩
    rw [exec_tcTrunc_of_le hf ht s hle, zext32_eq_ofNat, toNat_operandA]

/-! The laws of negation and complement. -/

section
variable {w : Nat} (a : BitVec w)

theorem negate_negate : negate (negate a) = a := by
  rw [negate_eq_neg, negate_eq_neg, BitVec.neg_neg]

/-- Zero sum, for any number with the operand's low w bits (R136). -/
theorem add_toNat_negate_mod {n : Nat} (h : a.toNat = n % 2 ^ w) : (n + (negate a).toNat) % 2 ^ w = 0 := by
  have hsum : (a + -a).toNat = 0 := by rw [BitVec.add_right_neg, BitVec.toNat_zero]
  rwa [BitVec.toNat_add, h, Nat.mod_add_mod, ← negate_eq_neg] at hsum

/-- The most negative value is the one of its bits as a number (R136). -/
theorem eq_intMin_iff (hw : 1 ≤ w) : a = BitVec.intMin w ↔ a.toNat = 2 ^ (w - 1) := by
  rw [← BitVec.toNat_inj, BitVec.toNat_intMin_of_pos hw]

theorem toNat_add_toNat_not : a.toNat + (~~~a).toNat = 2 ^ w - 1 := by
  have ha := a.isLt
  rw [BitVec.toNat_not]
  omega

/-- Negation is "bitwise complement followed by adding 1", as numbers (R132, R137). -/
theorem toNat_negate_eq_toNat_not_add_one : (negate a).toNat = ((~~~a).toNat + 1) % 2 ^ w := by
  rw [negate_eq_neg, BitVec.neg_eq_not_add, BitVec.toNat_add, BitVec.toNat_ofNat, Nat.add_mod_mod]

end

/-- Settles O42: R0 holds the negation of the w-bit operand, whose laws are `BitVec`'s. -/
theorem negationIsAnInvolutionWithZeroSum : Obligations.NegationIsAnInvolutionWithZeroSum := by
  intro wf w s hmem
  have hw := (widthOf_eq_some wf w).mpr hmem
  obtain ⟨hpos, hle⟩ := width_bounds hw
  refine ⟨_, _, exec_tcNeg_of_width hw s, exec_tcNeg_of_width hw _, ?_, ?_, fun hne => ?_, fun hmin => ?_⟩
  · rw [operandA_zext32 hle, negate_negate, toNat_zext32 hle, toNat_operandA]
  · rw [toNat_zext32 hle]
    exact add_toNat_negate_mod _ (toNat_operandA s w)
  · rw [setWidth_zext32 hle, negate_eq_neg]
    rw [← toNat_operandA, ne_eq, ← eq_intMin_iff _ hpos] at hne
    exact BitVec.toInt_neg_of_ne_intMin hne
  · rw [← toNat_operandA, ← eq_intMin_iff _ hpos] at hmin
    rw [toNat_zext32 hle, negate_eq_neg, hmin, BitVec.neg_intMin, BitVec.toNat_intMin_of_pos hpos]

/-- Settles O43: the operand and its complement have no carry, and negation is defined from the complement. -/
theorem complementPlusOneIsNegation : Obligations.ComplementPlusOneIsNegation := by
  intro wf w s hmem
  have hw := (widthOf_eq_some wf w).mpr hmem
  obtain ⟨-, hle⟩ := width_bounds hw
  refine ⟨_, _, exec_tcNot_of_width hw s, exec_tcNeg_of_width hw s, ?_, ?_⟩
  · have hpow : 0 < 2 ^ w := Nat.two_pow_pos w
    rw [toNat_zext32 hle, ← toNat_operandA, toNat_add_toNat_not, Nat.mod_eq_of_lt (by omega)]
  · rw [toNat_zext32 hle, toNat_zext32 hle]
    exact toNat_negate_eq_toNat_not_add_one _

/-! Extension and truncation. -/

section
variable {wf wt : WidthCode} {f t : Nat} (hf : widthOf wf = some f) (ht : widthOf wt = some t) (s : State)
include hf ht

/-- TC_SEXT of two widths answers: it fails exactly on narrowing, else R0 is the extended operand (R134). -/
theorem exec_tcSext_answers : ∃ x, exec (.tcSext wf wt) s = .next x ∧ (stErr x.st ≠ 0 ↔ t < f) ∧
    (f ≤ t → x.r0 = zext32 ((s.operandA f).signExtend t)) := by
  by_cases h : t < f
  · exact ⟨_, exec_tcSext_of_lt hf ht s h, by simp [h], fun hle => absurd h (Nat.not_lt.mpr hle)⟩
  · exact ⟨_, exec_tcSext_of_le hf ht s (Nat.not_lt.mp h), by simp [h], fun _ => rfl⟩

/-- TC_TRUNC of two widths answers: it fails exactly on widening, else R0 is the low bits of A (R135). -/
theorem exec_tcTrunc_answers : ∃ y, exec (.tcTrunc wf wt) s = .next y ∧ (stErr y.st ≠ 0 ↔ f < t) ∧
    (t ≤ f → y.r0 = zext32 (s.operandA t)) := by
  by_cases h : f < t
  · exact ⟨_, exec_tcTrunc_of_lt hf ht s h, by simp [h], fun hle => absurd h (Nat.not_lt.mpr hle)⟩
  · exact ⟨_, exec_tcTrunc_of_le hf ht s (Nat.not_lt.mp h), by simp [h], fun _ => rfl⟩

end

/-- An extended value in a register has the operand as its low bits (R138). -/
theorem setWidth_zext32_signExtend {f t : Nat} (hle : f ≤ t) (ht : t ≤ 32) (a : BitVec f) :
    (zext32 (a.signExtend t)).setWidth f = a := by
  rw [← BitVec.setWidth_setWidth_of_le _ hle, setWidth_zext32 ht, setWidth_signExtend_of_le hle]

/-- Settles O44: each command fails on the other's order alone, and extension keeps the bits truncation reads. -/
theorem truncationUndoesExtension : Obligations.TruncationUndoesExtension := by
  intro wf wt f t s hf ht
  rw [← widthOf_eq_some] at hf ht
  obtain ⟨-, hf32⟩ := width_bounds hf
  obtain ⟨-, ht32⟩ := width_bounds ht
  obtain ⟨x, hx, hxerr, hxr0⟩ := exec_tcSext_answers hf ht s
  obtain ⟨y, hy, hyerr, hyr0⟩ := exec_tcTrunc_answers hf ht s
  obtain ⟨z, hz, hzerr, hzr0⟩ := exec_tcTrunc_answers ht hf { x with a := x.r0 }
  refine ⟨x, y, z, hx, hy, hz, fun heq => ?_, hxerr, hyerr, fun hle => ⟨?_, ?_⟩⟩
  · subst heq
    rw [hxr0 le_rfl, hyr0 le_rfl, BitVec.signExtend_eq]
  · have hback : ({ x with a := x.r0 } : State).operandA f = s.operandA f :=
      (congrArg (BitVec.setWidth f) (hxr0 hle)).trans (setWidth_zext32_signExtend hle ht32 _)
    rw [hzr0 hle, hback, toNat_zext32 hf32, toNat_operandA]
  · exact not_ne_iff.mp fun herr => absurd (hzerr.mp herr) (Nat.not_lt.mpr hle)

/-! The rendering function. -/

theorem length_render {w : Nat} (v : BitVec w) : (render v).length = w := by
  rw [render, List.length_map, List.length_range]

/-- Character `i` is bit w-1-i (R139). -/
theorem getElem?_render {w i : Nat} (hi : i < w) (v : BitVec w) :
    (render v)[i]? = some (if v.getLsbD (w - 1 - i) then '1' else '0') := by
  rw [render, List.getElem?_map, List.getElem?_range hi, Option.map_some]

/-- Bit 0 is rendered last, after the rendering of the bits above it. -/
theorem render_concat {w : Nat} (v : BitVec w) (b : Bool) :
    render (v.concat b) = render v ++ [if b then '1' else '0'] := by
  have habove : ∀ i ∈ List.range w, (v.concat b).getLsbD (w - i) = v.getLsbD (w - 1 - i) := by
    intro i hi
    rw [List.mem_range] at hi
    rw [show w - i = w - 1 - i + 1 by omega, BitVec.getLsbD_concat_succ]
  rw [render, render, List.range_succ, List.map_append, List.map_singleton, Nat.add_sub_cancel, Nat.sub_self,
    BitVec.getLsbD_concat_zero, List.map_congr_left fun i hi => by rw [habove i hi]]

/-- Read as a binary number, most significant digit first, the rendering of a value is the value (R139). -/
theorem foldl_render {w : Nat} (v : BitVec w) :
    (render v).foldl (fun acc ch => 2 * acc + (if ch = '1' then 1 else 0)) 0 = v.toNat := by
  induction v using BitVec.concat_induction with
  | nil => rfl
  | concat v b ih =>
    rw [render_concat, List.foldl_append, ih, BitVec.toNat_concat]
    cases b <;> simp [Nat.mul_comm]

/-- Settles O45: the list has one character for each index, and its value builds up bit by bit. -/
theorem renderingShowsExactlyTheWidth : Obligations.RenderingShowsExactlyTheWidth :=
  fun _ v => ⟨length_render v, fun _ hi => getElem?_render hi v, foldl_render v⟩

end Sys2Proof.Machine

namespace Sys2Proof.Machine

/-!
PROOF. The float32 field codec statements (42_float32_codec): what FC_DECOMP and FC_COMP answer (R161, R162), and that
they are inverses (R163).
-/

/-! The fields of a pattern, as numbers (R160). -/

section
variable (p : Word)

theorem toNat_floatSign : (floatSign p).toNat = p.toNat / 2 ^ 31 := by
  have hp := p.isLt
  rw [floatSign, BitVec.extractLsb'_toNat, Nat.shiftRight_eq_div_pow, Nat.mod_eq_of_lt (by omega)]

theorem toNat_floatExponent : (floatExponent p).toNat = p.toNat / 2 ^ 23 % 2 ^ 8 := by
  rw [floatExponent, BitVec.extractLsb'_toNat, Nat.shiftRight_eq_div_pow]

theorem toNat_floatMantissa : (floatMantissa p).toNat = p.toNat % 2 ^ 23 := by
  rw [floatMantissa, BitVec.extractLsb'_toNat, Nat.shiftRight_zero]

end

/-- A field moved to its place in the pattern loses no bit. -/
theorem toNat_setWidth_shiftLeft {w k : Nat} (h : k + w ≤ 32) (b : BitVec w) :
    (b.setWidth 32 <<< k).toNat = 2 ^ k * b.toNat := by
  have hlt : 2 ^ k * b.toNat < 2 ^ 32 := calc
    2 ^ k * b.toNat < 2 ^ k * 2 ^ w := Nat.mul_lt_mul_of_pos_left b.isLt (Nat.two_pow_pos k)
    _ = 2 ^ (k + w) := (Nat.pow_add 2 k w).symm
    _ ≤ 2 ^ 32 := Nat.pow_le_pow_right (by decide) h
  rw [BitVec.toNat_shiftLeft, BitVec.toNat_setWidth_of_le (by omega), Nat.shiftLeft_eq, Nat.mul_comm,
    Nat.mod_eq_of_lt hlt]

section
variable (sign : BitVec 1) (exponent : BitVec 8) (mantissa : BitVec 23)

/-- The fields do not overlap, so the pattern is their sum, each at its weight (R160). -/
theorem toNat_floatPattern : (floatPattern sign exponent mantissa).toNat =
    2 ^ 31 * sign.toNat + 2 ^ 23 * exponent.toNat + mantissa.toNat := by
  have he := exponent.isLt
  have hm := mantissa.isLt
  have hlow : 2 ^ 23 * exponent.toNat + mantissa.toNat < 2 ^ 31 := by omega
  rw [floatPattern, BitVec.toNat_or, BitVec.toNat_or, toNat_setWidth_shiftLeft (by decide),
    toNat_setWidth_shiftLeft (by decide), BitVec.toNat_setWidth_of_le (by decide), Nat.or_assoc,
    ← Nat.two_pow_add_eq_or_of_lt hm, ← Nat.two_pow_add_eq_or_of_lt hlow, Nat.add_assoc]

/-! Packing and splitting undo each other (R163). -/

theorem floatSign_floatPattern : floatSign (floatPattern sign exponent mantissa) = sign := by
  have he := exponent.isLt
  have hm := mantissa.isLt
  apply BitVec.eq_of_toNat_eq
  rw [toNat_floatSign, toNat_floatPattern]
  omega

theorem floatExponent_floatPattern : floatExponent (floatPattern sign exponent mantissa) = exponent := by
  have he := exponent.isLt
  have hm := mantissa.isLt
  apply BitVec.eq_of_toNat_eq
  rw [toNat_floatExponent, toNat_floatPattern]
  omega

theorem floatMantissa_floatPattern : floatMantissa (floatPattern sign exponent mantissa) = mantissa := by
  have hm := mantissa.isLt
  apply BitVec.eq_of_toNat_eq
  rw [toNat_floatMantissa, toNat_floatPattern]
  omega

end

theorem floatPattern_fields (p : Word) : floatPattern (floatSign p) (floatExponent p) (floatMantissa p) = p := by
  apply BitVec.eq_of_toNat_eq
  rw [toNat_floatPattern, toNat_floatSign, toNat_floatExponent, toNat_floatMantissa]
  omega

/-- An operand within its field's width is its field (R162). -/
theorem zext32_setWidth_of_lt {w : Nat} (hw : w ≤ 32) {v : Word} (h : v.toNat < 2 ^ w) :
    zext32 (v.setWidth w) = v := by
  apply BitVec.eq_of_toNat_eq
  rw [toNat_zext32 hw, BitVec.toNat_setWidth, Nat.mod_eq_of_lt h]

/-- The pattern of operands in range, as a number (R162). -/
theorem floatPattern_of_inRange {a b c : Word} (h : a.toNat ≤ 1 ∧ b.toNat ≤ 255 ∧ c.toNat ≤ 0x7FFFFF) :
    floatPattern (a.setWidth 1) (b.setWidth 8) (c.setWidth 23) =
      BitVec.ofNat 32 (2 ^ 31 * a.toNat + 2 ^ 23 * b.toNat + c.toNat) := by
  obtain ⟨ha, hb, hc⟩ := h
  apply BitVec.eq_of_toNat_eq
  rw [toNat_floatPattern, BitVec.toNat_setWidth, BitVec.toNat_setWidth, BitVec.toNat_setWidth,
    Nat.mod_eq_of_lt (by omega), Nat.mod_eq_of_lt (by omega), Nat.mod_eq_of_lt (by omega),
    toNat_ofNat_of_lt (by omega)]

/-- The mask of the fields out of range as a sum: A counts 1, B counts 2, C counts 4 (R162, R202). -/
theorem fieldRangeMask_eq_ofNat (a b c : Word) : fieldRangeMask a b c = BitVec.ofNat 8
    ((if a.toNat > 1 then 1 else 0) + (if b.toNat > 255 then 2 else 0) + (if c.toNat > 0x7FFFFF then 4 else 0)) := by
  rw [fieldRangeMask]
  split <;> split <;> split <;> rfl

/-! The ends of the two commands. -/

/-- FC_DECOMP at every pattern (R161). -/
theorem exec_fcDecomp_eq (s : State) : exec .fcDecomp s = .next { s with
    r0 := zext32 (floatSign s.a), r1 := zext32 (floatExponent s.a), r2 := zext32 (floatMantissa s.a),
    r3 := zext32 (floatExponent s.a) - 127, st := successStatus opFcDecomp s.st } :=
  finish_setResults _ _ _ _ _ _

/-- FC_COMP with every field in range (R162). -/
theorem exec_fcComp_of_inRange {s : State} (h : s.a.toNat ≤ 1 ∧ s.b.toNat ≤ 255 ∧ s.c.toNat ≤ 0x7FFFFF) :
    exec .fcComp s = .next { s with
      r0 := floatPattern (s.a.setWidth 1) (s.b.setWidth 8) (s.c.setWidth 23), st := successStatus opFcComp s.st } := by
  rw [exec_fcComp, execFcComp, if_pos ((fieldRangeMask_eq_zero _ _ _).mpr h), finish_setR0]

/-- FC_COMP with some field out of range (R162). -/
theorem exec_fcComp_of_outOfRange {s : State} (h : ¬ (s.a.toNat ≤ 1 ∧ s.b.toNat ≤ 255 ∧ s.c.toNat ≤ 0x7FFFFF)) :
    exec .fcComp s = .next { s with
      st := raisedStatus opFcComp .fieldOutOfRange (fieldRangeMask s.a s.b s.c) } := by
  rw [exec_fcComp, execFcComp, if_neg (mt (fieldRangeMask_eq_zero _ _ _).mp h), finish_raise]

/-- FC_COMP takes any three fields zero-extended to registers, and R0 is their pattern (R162). -/
theorem exec_fcComp_of_fields {s : State} {sign : BitVec 1} {exponent : BitVec 8} {mantissa : BitVec 23}
    (ha : s.a = zext32 sign) (hb : s.b = zext32 exponent) (hc : s.c = zext32 mantissa) :
    exec .fcComp s = .next { s with
      r0 := floatPattern sign exponent mantissa, st := successStatus opFcComp s.st } := by
  have hs := sign.isLt
  have he := exponent.isLt
  have hm := mantissa.isLt
  have hrange : s.a.toNat ≤ 1 ∧ s.b.toNat ≤ 255 ∧ s.c.toNat ≤ 0x7FFFFF := by
    rw [ha, hb, hc, toNat_zext32 (by decide), toNat_zext32 (by decide), toNat_zext32 (by decide)]
    omega
  rw [exec_fcComp_of_inRange hrange, ha, hb, hc, setWidth_zext32 (by decide), setWidth_zext32 (by decide),
    setWidth_zext32 (by decide)]

/-- Settles O46: the row of opcode 8, and each field of A as a number. -/
theorem fcDecompSplitsThePattern : Obligations.FcDecompSplitsThePattern := by
  refine ⟨encodedBy_of_row rfl rfl rfl (fun _ => rfl) rfl, fun s => ?_⟩
  have hr3 : BitVec.ofInt 32 ((floatExponent s.a).toNat - 127) = zext32 (floatExponent s.a) - 127 := by
    rw [Int.sub_eq_add_neg, BitVec.ofInt_add, BitVec.ofInt_neg, BitVec.ofInt_natCast, ← zext32_eq_ofNat,
      BitVec.sub_eq_add_neg]
    rfl
  rw [← toNat_floatSign, ← toNat_floatExponent, ← toNat_floatMantissa, hr3, ← zext32_eq_ofNat, ← zext32_eq_ofNat,
    ← zext32_eq_ofNat]
  exact exec_fcDecomp_eq s

/-- Settles O47: the row of opcode 9, and the command by its fields' ranges. -/
theorem fcCompPacksFieldsInRange : Obligations.FcCompPacksFieldsInRange := by
  refine ⟨encodedBy_of_row rfl rfl rfl (fun _ => rfl) rfl, fun s => ⟨fun hin => ?_, fun hout => ?_⟩⟩
  · rw [exec_fcComp_of_inRange hin, floatPattern_of_inRange hin]
  · rw [← fieldRangeMask_eq_ofNat]
    exact exec_fcComp_of_outOfRange hout

/-- Settles O48: the fields FC_DECOMP gives are FC_COMP's, and the registers in range are the fields FC_COMP packs. -/
theorem decomposeAndComposeAreInverse : Obligations.DecomposeAndComposeAreInverse := by
  refine ⟨fun s => ?_, fun s ha hb hc => ?_⟩
  · exact ⟨_, _, exec_fcDecomp_eq s, exec_fcComp_of_fields rfl rfl rfl, floatPattern_fields s.a,
      stErr_successStatus _ _⟩
  · refine ⟨_, _, exec_fcComp_of_inRange ⟨ha, hb, hc⟩, exec_fcDecomp_eq _, ?_, ?_, ?_⟩
    · rw [floatSign_floatPattern, zext32_setWidth_of_lt (by decide) (by omega)]
    · rw [floatExponent_floatPattern, zext32_setWidth_of_lt (by decide) (by omega)]
    · rw [floatMantissa_floatPattern, zext32_setWidth_of_lt (by decide) (by omega)]

end Sys2Proof.Machine

namespace Sys2Proof.Machine

/-!
PROOF. The status command (43_status_control): CLRST's row of R73 fixes every bit of the word, and its arm of `exec`
writes ST without the success update (R190, R205).
-/

/-- Settles O28: the row of opcode 0, whose mask is the whole word, and CLRST's arm, which writes ST alone. -/
theorem clrstClearsStatusOnly : Obligations.ClrstClearsStatusOnly := by
  refine ⟨encodedBy_of_row rfl rfl rfl (fun _ => rfl) rfl, fun s => ?_⟩
  rw [exec_clrst, execClrst]

end Sys2Proof.Machine

namespace Sys2Proof.Machine

/-!
PROOF. The exception statements (60_exceptions): the two words a command can leave in ST, as numbers (R204, R205). The
fields of ST do not overlap (R27), so a status word is their sum, each at its weight.
-/

/-- A number below `2 ^ k` and a multiple of `2 ^ k` share no bit, so `|||` adds them. -/
theorem or_two_pow_mul_of_lt {x k : Nat} (h : x < 2 ^ k) (y : Nat) : x ||| 2 ^ k * y = x + 2 ^ k * y := by
  rw [Nat.or_comm, ← Nat.two_pow_add_eq_or_of_lt h, Nat.add_comm]

/-- A status word is the sum of its fields, each at its weight (R27). -/
theorem toNat_statusWord (err : BitVec 3) (sticky : Bool) (op : BitVec 4) (info : BitVec 8) :
    (statusWord err sticky op info).toNat =
      err.toNat + 2 ^ 3 * sticky.toNat + 2 ^ 4 * op.toNat + 2 ^ 8 * info.toNat := by
  have herr := err.isLt
  have hsticky := sticky.toNat_lt
  have hop := op.isLt
  have hbelowOp : err.toNat + 2 ^ 3 * sticky.toNat < 2 ^ 4 := by omega
  have hbelowInfo : err.toNat + 2 ^ 3 * sticky.toNat + 2 ^ 4 * op.toNat < 2 ^ 8 := by omega
  rw [statusWord, BitVec.toNat_or, BitVec.toNat_or, BitVec.toNat_or, BitVec.toNat_setWidth_of_le (by decide),
    toNat_setWidth_shiftLeft (by decide), toNat_setWidth_shiftLeft (by decide), toNat_setWidth_shiftLeft (by decide),
    BitVec.toNat_ofBool, or_two_pow_mul_of_lt herr, or_two_pow_mul_of_lt hbelowOp,
    or_two_pow_mul_of_lt hbelowInfo]

/-- A status word from the number its fields add up to. -/
theorem statusWord_eq_ofNat {err : BitVec 3} {sticky : Bool} {op : BitVec 4} {info : BitVec 8} {n : Nat}
    (h : err.toNat + 2 ^ 3 * sticky.toNat + 2 ^ 4 * op.toNat + 2 ^ 8 * info.toNat = n) :
    statusWord err sticky op info = BitVec.ofNat 32 n := by
  rw [← h, ← toNat_statusWord, BitVec.ofNat_toNat, BitVec.setWidth_eq]

/-- STICKY as a number, the bit of weight 8 (R27). -/
theorem toNat_stSticky (st : Word) : (stSticky st).toNat = st.toNat / 8 % 2 := Nat.toNat_testBit st.toNat 3

/-- The status a raise writes, as a number: the code, STICKY set, the opcode and the detail (R204). -/
theorem raisedStatus_eq_ofNat (op : BitVec 4) (e : ErrorKind) (info : BitVec 8) :
    raisedStatus op e info = BitVec.ofNat 32 ((errorCode e).toNat + 8 + 16 * op.toNat + 256 * info.toNat) :=
  statusWord_eq_ofNat rfl

/-- The status a success writes, as a number: STICKY as it was and the opcode (R205). -/
theorem successStatus_eq_ofNat (op : BitVec 4) (old : Word) :
    successStatus op old = BitVec.ofNat 32 (8 * (old.toNat / 8 % 2) + 16 * op.toNat) := by
  refine statusWord_eq_ofNat ?_
  rw [toNat_stSticky]
  simp

/-- The table of R201 gives each error kind its code. -/
theorem toNat_errorCode_of_mem {e : ErrorKind} {code : Nat}
    (h : (e, code) ∈ [(ErrorKind.invalidDigit, 1), (.invalidWidth, 2), (.fieldOutOfRange, 3), (.illegalCommand, 4)]) :
    (errorCode e).toNat = code := by
  cases e <;> simpa [errorCode, eq_comm] using h

/-- Settles O18: a raise writes ST alone, and the word it writes is the sum of its fields. -/
theorem raiseWritesStatusAndNothingElse : Obligations.RaiseWritesStatusAndNothingElse := by
  intro s op info e code hcode
  rw [finish_raise, raisedStatus_eq_ofNat, toNat_errorCode_of_mem hcode]

/-- Settles O19: a success writes ST over the committed results, and the word it writes is the sum of its fields. -/
theorem successKeepsStickyAndClearsError : Obligations.SuccessKeepsStickyAndClearsError := by
  intro s t op
  rw [finish_ok, State.succeed, successStatus_eq_ofNat]

end Sys2Proof.Machine

namespace Sys2Proof.Machine

/-!
PROOF. The reset statement (70_reset): reset asserted during a held CMD write (R231).
-/

/-- A CMD write held while reset is asserted counts one position and leaves the reset block; no command runs (R231). -/
theorem hostAction_resetDuringCmd (v : Word) (s : State) :
    hostAction (.resetDuringCmd v) s = .next s.countAccess.resetBlock := rfl

/-- Settles O14: the step is the held write's, whose word `hostAction` never executes. -/
theorem resetDuringCommandAbandonsIt : Obligations.ResetDuringCommandAbandonsIt := by
  intro s v rest hpending
  rw [step_of_cons hpending, hostAction_resetDuringCmd, State.resetBlock, State.countAccess, State.takeAction]

end Sys2Proof.Machine
